-- ==== Sys2Proof/Word.lean ====
section
/-! DEFINITION. The word types of the codec (spec/00_scope.md R7; widths as spec/10_state.md R45 gives them). -/

namespace Sys2Proof

/-- A byte: 8 bits, unsigned unless a rule reads it as signed (R7). -/
abbrev Byte := BitVec 8

/-- The 16-bit operands `MS_DX` and `MS_DY` (R28), and what a host access carries. -/
abbrev Half := BitVec 16

/-- The 9-bit position counters `TX_IDX`, `RX_IDX`, `RX_NEED` (R31, R32). -/
abbrev Count := BitVec 9

end Sys2Proof
end

