-- ==== Sys2Proof/Config.lean ====
section
/-! DEFINITION. The constants of spec/00_scope.md R5 as one record, the decided parameters of R6, the dispatch table of
spec/42_dispatch.md R181, and the values the spec leaves open (constants without a body). -/

namespace Sys2Proof

/-- The constants the source fixes (R5) and the two flush decisions of R6 (D6, D7). -/
structure Config where
  head0 : Byte
  head1 : Byte
  headLen : Nat
  overhead : Nat
  maxPayload : Nat
  maxFrame : Nat
  rspBit : Byte
  cmdKb : Byte
  cmdMs : Byte
  cmdGet : Byte
  cmdSet : Byte
  kbLen : Byte
  kbKeys : Nat
  kbReserved : Byte
  msLen : Byte
  msMarker : Byte
  deltaMax : Int
  paraLen : Byte
  getReqLen : Byte
  getRspLen : Byte
  getRspTotal : Nat
  setReqLen : Byte
  setRspLen : Byte
  setRspTotal : Nat
  statusOk : Byte
  baudOff : Nat
  baudW : Nat
  linkBaud : Nat
  linkDataBits : Nat
  linkParityBits : Nat
  linkStopBits : Nat
  flushRxBeforeRequest : Bool
  flushTxAfterFrame : Bool
  txBufCells : Nat
  rxBufCells : Nat
  deriving DecidableEq, Repr

/-- The values of R5 and R6; the sizes of the two byte memories are those of spec/20_memory.md R60. -/
abbrev cfg : Config where
  head0 := 0x57
  head1 := 0xAB
  headLen := 2
  overhead := 6
  maxPayload := 255
  maxFrame := 261
  rspBit := 0x80
  cmdKb := 0x02
  cmdMs := 0x05
  cmdGet := 0x08
  cmdSet := 0x09
  kbLen := 8
  kbKeys := 6
  kbReserved := 0x00
  msLen := 5
  msMarker := 0x01
  deltaMax := 127
  paraLen := 50
  getReqLen := 0
  getRspLen := 50
  getRspTotal := 56
  setReqLen := 50
  setRspLen := 1
  setRspTotal := 7
  statusOk := 0x00
  baudOff := 3
  baudW := 4
  linkBaud := 9600
  linkDataBits := 8
  linkParityBits := 0
  linkStopBits := 1
  flushRxBeforeRequest := true
  flushTxAfterFrame := true
  txBufCells := 255
  rxBufCells := 261

/-- One row of the dispatch table (R181): `(req_len, await, rsp_len, chk_status)`. `rspLen` of a row
that awaits nothing is "-" in the table: absent. -/
structure DispatchEntry where
  reqLen : Byte
  await : Bool
  rspLen : Option Byte
  chkStatus : Bool
  deriving DecidableEq, Repr

/-- R181, row 0x02 `SEND_KB_GENERAL_DATA`. -/
abbrev entryKb : DispatchEntry := ⟨cfg.kbLen, false, none, false⟩
/-- R181, row 0x05 `SEND_MS_REL_DATA`. -/
abbrev entryMs : DispatchEntry := ⟨cfg.msLen, false, none, false⟩
/-- R181, row 0x08 `GET_PARA_CFG`. -/
abbrev entryGet : DispatchEntry := ⟨cfg.getReqLen, true, some cfg.getRspLen, false⟩
/-- R181, row 0x09 `SET_PARA_CFG`. -/
abbrev entrySet : DispatchEntry := ⟨cfg.setReqLen, true, some cfg.setRspLen, true⟩

/-- R181: the dispatch table as a partial function, defined on exactly four command bytes. -/
def dispatchEntry (c : Byte) : Option DispatchEntry :=
  if c = cfg.cmdKb then some entryKb
  else if c = cfg.cmdMs then some entryMs
  else if c = cfg.cmdGet then some entryGet
  else if c = cfg.cmdSet then some entrySet
  else none

/-- R6 `DEV_ADDR` (D1): the device's address byte, open; no rule of the codec reads it. -/
opaque Config.devAddr : Byte

/-- R6 `RX_TIMEOUT` (D2): the fixed timeout of a transport read, open; no rule reads it. -/
opaque Config.rxTimeout : Nat

/-- R6 `STATUS codes` (D8): what a nonzero status byte means, open; the codec reports the byte unread. -/
opaque Config.statusMeaning : Byte → Nat

/-- FREE VALUE (log entry 11): what an `RX_BUF` cell never written since reset holds; R82 gives it no
defined value. First argument: the model's counter `State.freeCtr`; second: the cell. -/
opaque Config.freeCell : Nat → Nat → Byte

/-- FREE VALUE (log entry 10): what a host read returns where the spec gives "any value"
(spec/93_implementation_defined.md U5, U6). Argument: the model's counter `State.freeCtr`. -/
opaque Config.freeRead : Nat → Half

end Sys2Proof
end

