-- ==== Sys2Proof/Machine/State.lean ====
section
/-! DEFINITION. Everything the spec gives the codec (spec/10_state.md R20 to R52, spec/20_memory.md R60), the environment
it names a place for (R52, R71, R279), the inputs still to come, and the state after reset (R260). -/

namespace Sys2Proof.Machine

/-- `PHASE` (R30): which engine runs. -/
inductive Phase where
  | idle
  | tx
  | rx
  | done
  deriving DecidableEq, Repr

/-- `RESULT` (R40). The value 3 is never written, so it has no constructor. -/
inductive Result where
  | none
  | ok
  | err
  deriving DecidableEq, Repr

/-- `ERR_CODE` (R42, R230): the cause of the last operation's failure. -/
inductive ErrCode where
  | none
  | header
  | command
  | length
  | checksum
  | timeout
  | rejected
  | io
  | badop
  deriving DecidableEq, Repr

/-- `CHECKS` (R41): the outputs of the four receive-side sub-blocks. -/
structure Checks where
  hdrOk : Bool
  cmdOk : Bool
  lenOk : Bool
  sumOk : Bool
  deriving DecidableEq, Repr

/-- `CHECKS` cleared (R41, R111). -/
abbrev Checks.zero : Checks := ⟨false, false, false, false⟩

/-- `OPLATCH` (R35). -/
structure OpLatch where
  await : Bool
  chkStatus : Bool
  deriving DecidableEq, Repr

/-- The transport events the codec puts out (R70). -/
inductive LinkEvent where
  | txByte (b : Byte)
  | txFlush
  | rxFlush
  deriving DecidableEq, Repr

/-- What the host and the environment can do to the codec, one event at a time (R10, R46, R47, R70, R71, R115, R260;
log entry 1). -/
inductive Input where
  /-- Host write of `v` to register number `no`, cell `idx` of it where it is a memory (R45, R46); a write of
  number 0x00, `OP`, issues an operation (R47). -/
  | wr (no : Byte) (idx : Nat) (v : Half)
  /-- Host read (R46). -/
  | rd (no : Byte) (idx : Nat)
  /-- A whole frame passes on the serial link (log entry 4). -/
  | link (bytes : List Byte)
  /-- The device's bytes arrive at the back of the transport's input buffer (R71). -/
  | arrive (bytes : List Byte)
  /-- The transport accepts a byte (R133). -/
  | txReady
  /-- `TxFail` (R70, R135). -/
  | txFail
  /-- `RxByte`: the byte at the front of the input buffer is taken (R70, R71, R156). -/
  | rxByte
  /-- `RxTimeout` (R70, R157). -/
  | rxTimeout
  /-- The `rst` input: hardware reset (R50, R260). -/
  | rst
  /-- The device stores a parameter block in its non-volatile memory (R52 (b)). -/
  | devStore (block : Vector Byte 50)
  /-- The device is reset or power-cycled (R52 (b), R274). -/
  | devPowerCycle
  deriving DecidableEq, Repr

/-- A byte memory (R60): its written cells in rising order, each once; a cell not listed holds no defined value (R82). -/
abbrev Mem := List Host.Cell

/-- Why a step stops with a fault. -/
inductive Fault where
  /-- Raised by the transmit step in phase `TX` with `TX_IDX` above `TX_LEN + 5`, a value R133 gives no meaning and no run
  reaches (`Inv`). Safe: the model stops where the spec has no rule (log entry 12). -/
  | txIdxPastFrame
  deriving DecidableEq, Repr

/-- Why a step gives the run no meaning. -/
inductive Refusal where
  /-- Raised by `exec` for an instruction the model gives no meaning: there is none. Safe. -/
  | notModelled (mnemonic : String)
  /-- Raised by a transmit that would read a `TX_BUF` cell nothing has written since reset: R82 and U5 ask a model to
  refuse there. Safe: claims about such a run are unprovable (log entry 9). -/
  | unwrittenTxCell
  deriving DecidableEq, Repr

/-- The state of the codec and of the environment it exchanges events with. -/
structure State where
  /-- `TX_ADDR` (R21). -/
  txAddr : Byte
  /-- `TX_CMD` (R22). -/
  txCmd : Byte
  /-- `TX_LEN` (R23). -/
  txLen : Byte
  /-- `TX_BUF[0..254]` (R24, R61). -/
  txBuf : Mem
  /-- `EXP_CMD` (R25). -/
  expCmd : Byte
  /-- `EXP_LEN` (R26). -/
  expLen : Byte
  /-- `KB_MOD` (R27). -/
  kbMod : Byte
  /-- `KB_CNT` (R27). -/
  kbCnt : Byte
  /-- `KB_KEY[0..5]` (R27). -/
  kbKey : Vector Byte 6
  /-- `MS_DX` (R28). -/
  msDx : Half
  /-- `MS_DY` (R28). -/
  msDy : Half
  /-- `MS_BTN` (R28). -/
  msBtn : Byte
  /-- `MS_WHEEL` (R28). -/
  msWheel : Byte
  /-- `PHASE` (R30). -/
  phase : Phase
  /-- `TX_IDX` (R31). -/
  txIdx : Count
  /-- `RX_IDX` (R32). -/
  rxIdx : Count
  /-- `RX_NEED` (R32). -/
  rxNeed : Count
  /-- `TX_SUM` (R33). -/
  txSum : Byte
  /-- `RX_SUM` (R34). -/
  rxSum : Byte
  /-- `OPLATCH` (R35). -/
  opLatch : OpLatch
  /-- `RX_BUF[0..260]` (R36, R62). -/
  rxBuf : Mem
  /-- `RESULT` (R40). -/
  result : Result
  /-- `CHECKS` (R41). -/
  checks : Checks
  /-- `ERR_CODE` (R42). -/
  errCode : ErrCode
  /-- `ERR_STATUS` (R43). -/
  errStatus : Byte
  /-- `ERR_SEEN` (R44). -/
  errSeen : BitVec 9
  /-- Environment: the transport's input buffer `Q`, front first (R52 (a), R71). -/
  rxQueue : List Byte
  /-- Environment: the device's stored parameter block (R52 (b)). -/
  devBlock : Vector Byte 50
  /-- Environment: the line speed the device is using (R265 (1), R274). -/
  devBaud : BitVec 32
  /-- Environment: the transport output events so far, oldest first (R279). -/
  link : List LinkEvent
  /-- Environment: how many bytes have been taken from the input buffer (R279). -/
  rxTaken : Nat
  /-- Environment: what the host's last read returned (R46). -/
  hostData : Half
  /-- The inputs still to come, the next one first (log entry 1). The model's own. -/
  inputs : List Input
  /-- Counter that picks fresh free values (log entries 10, 11). The model's own. -/
  freeCtr : Nat
  deriving DecidableEq, Repr

/-- The device's block at the start (log entry 15): zeros, with the default line speed 9600 = 0x00002580 at offset 3. -/
def resetDevBlock : Vector Byte 50 := ((Vector.replicate 50 (0 : Byte)).set 5 0x25).set 6 0x80

/-- The state right after hardware reset (R260), the environment as it stands before anything has happened
(log entry 15), no input given. -/
def State.reset : State where
  txAddr := 0x00
  txCmd := 0x00
  txLen := 0x00
  txBuf := []
  expCmd := 0x00
  expLen := 0x00
  kbMod := 0x00
  kbCnt := 0x00
  kbKey := Vector.replicate 6 0x00
  msDx := 0x0000
  msDy := 0x0000
  msBtn := 0x00
  msWheel := 0x00
  phase := .idle
  txIdx := 0
  rxIdx := 0
  rxNeed := 0
  txSum := 0x00
  rxSum := 0x00
  opLatch := ⟨false, false⟩
  rxBuf := []
  result := .none
  checks := .zero
  errCode := .none
  errStatus := 0x00
  errSeen := 0
  rxQueue := []
  devBlock := resetDevBlock
  devBaud := 9600
  link := []
  rxTaken := 0
  hostData := 0
  inputs := []
  freeCtr := 0

end Sys2Proof.Machine
end

