-- ==== Sys2Proof/Machine/Flags.lean ====
section
/-! DEFINITION. The checksum, the four checks of a response, and the packed forms of the result registers
(spec/10_state.md R33 to R45, spec/40_frame_transmit.md R131, spec/41_frame_receive.md R151, R152, spec/60_exceptions.md R230). -/

namespace Sys2Proof.Machine

/-- `sum8` (R8, R131): the low 8 bits of the sum of the bytes, from 0, carries discarded. -/
def sum8 (s : List Byte) : Byte := s.foldl (· + ·) 0

/-- `rsp_cmd` (R91). -/
def rspCmd (c : Byte) : Byte := c ||| cfg.rspBit

/-- `hdr_ok` (R151). -/
def hdrOk (s : List Byte) : Bool := s.getD 0 0 == cfg.head0 && s.getD 1 0 == cfg.head1

/-- `cmd_ok` (R151). -/
def cmdOk (s : List Byte) (ec : Byte) : Bool := s.getD 3 0 == rspCmd ec

/-- `len_ok` (R151). -/
def lenOk (s : List Byte) (el : Byte) : Bool := s.getD 4 0 == el

/-- `sum_ok` (R151): the trailing byte against the sum of all before it. -/
def sumOk (s : List Byte) : Bool := s.getD (s.length - 1) 0 == sum8 (s.take (s.length - 1))

/-- The four checks of R151 together. -/
def checksOf (s : List Byte) (ec el : Byte) : Checks := ⟨hdrOk s, cmdOk s ec, lenOk s el, sumOk s⟩

/-- The first failing check in the order header, command, length, checksum (R152, R245). -/
def Checks.firstFailure (c : Checks) : Option ErrCode :=
  if !c.hdrOk then some .header
  else if !c.cmdOk then some .command
  else if !c.lenOk then some .length
  else if !c.sumOk then some .checksum
  else none

/-- `CHECKS` as its four bits (R41): bit 0 `HDR_OK`, bit 1 `CMD_OK`, bit 2 `LEN_OK`, bit 3 `SUM_OK`. -/
def Checks.bits (c : Checks) : BitVec 4 :=
  BitVec.ofBool c.sumOk ++ BitVec.ofBool c.lenOk ++ BitVec.ofBool c.cmdOk ++ BitVec.ofBool c.hdrOk

/-- The codes of `PHASE` (R30). -/
def Phase.code : Phase → BitVec 2
  | .idle => 0
  | .tx => 1
  | .rx => 2
  | .done => 3

/-- Whether an engine runs: the phases in which the host is blocked (R10, R111). -/
def Phase.busy : Phase → Bool
  | .idle => false
  | .tx => true
  | .rx => true
  | .done => false

/-- The codes of `RESULT` (R40). -/
def Result.code : Result → BitVec 2
  | .none => 0
  | .ok => 1
  | .err => 2

/-- The codes of `ERR_CODE` (R230). -/
def ErrCode.code : ErrCode → BitVec 4
  | .none => 0
  | .header => 1
  | .command => 2
  | .length => 3
  | .checksum => 4
  | .timeout => 5
  | .rejected => 6
  | .io => 7
  | .badop => 8

/-- The bit of `ERR_SEEN` that cause `e` sets (R44, R240). -/
def ErrCode.seenBit (e : ErrCode) : BitVec 9 := 1#9 <<< e.code.toNat

/-- `OPLATCH` as its two bits (R35): bit 0 `AWAIT`, bit 1 `CHK_STATUS`. -/
def OpLatch.bits (l : OpLatch) : BitVec 2 := BitVec.ofBool l.chkStatus ++ BitVec.ofBool l.await

/-- `STATUS` (R45), a view: bits 7:4 `CHECKS`, bits 3:2 `RESULT`, bits 1:0 `PHASE`. -/
def State.status (s : State) : Byte := s.checks.bits ++ s.result.code ++ s.phase.code

/-- The output `done` (R50, R246). -/
def State.doneOut (s : State) : Bool := s.phase == .done

/-- The output `rx_ready` (R50). -/
def State.rxReady (s : State) : Bool := s.phase == .rx

end Sys2Proof.Machine
end

