-- ==== Sys2Proof/Machine/Ops.lean ====
section
/-! DEFINITION. The shared operations: the byte memories (spec/20_memory.md R60 to R62), acceptance (spec/30_encoding.md
R111), raising an error (spec/60_exceptions.md R240) and what takes its return's place (R242), the transmit engine
(spec/40_frame_transmit.md R133 to R135), the receive engine and its verdict (spec/41_frame_receive.md R155 to R158),
reset (spec/70_reset_and_hazards.md R260). -/

namespace Sys2Proof.Machine

/-- What a step or a meaning answers. -/
abbrev Answer := Host.Outcome State Fault Refusal

/-! ### Byte memories -/

/-- `MemRead` (R9, R60): the byte in cell `i`, none where nothing has written it since reset (R82). -/
def memRead : Mem → Nat → Option Byte
  | [], _ => none
  | (a, b) :: m, i => if a = i then some b else memRead m i

/-- Put `b` in cell `i`, keeping the cells in rising order. -/
def memPut : Mem → Nat → Byte → Mem
  | [], i, b => [(i, b)]
  | (a, c) :: m, i, b =>
    if i < a then (i, b) :: (a, c) :: m
    else if i = a then (i, b) :: m
    else (a, c) :: memPut m i b

/-- `MemWrite` (R9) in a memory of `size` cells: a write to an index that does not exist is dropped (R60). -/
def memWrite (size : Nat) (m : Mem) (i : Nat) (b : Byte) : Mem := if i < size then memPut m i b else m

/-- Successive `MemWrite`s from cell `i` on. -/
def memWriteList (size : Nat) : Mem → Nat → List Byte → Mem
  | m, _, [] => m
  | m, i, b :: bs => memWriteList size (memWrite size m i b) (i + 1) bs

/-- The `n` cells from cell `i` on, none where one of them is unwritten. -/
def memRange (m : Mem) : Nat → Nat → Option (List Byte)
  | _, 0 => some []
  | i, n + 1 =>
    match memRead m i, memRange m (i + 1) n with
    | some b, some bs => some (b :: bs)
    | _, _ => none

/-- The cells from `lo` on rise strictly and lie below `size`. -/
def memWfFrom (size : Nat) : Nat → Mem → Bool
  | _, [] => true
  | lo, (a, _) :: m => decide (lo ≤ a) && decide (a < size) && memWfFrom size (a + 1) m

/-- The canonical form of a memory of `size` cells. -/
def Memory.wf (size : Nat) (m : Mem) : Bool := memWfFrom size 0 m

/-- `RX_BUF[i]`; an unwritten cell holds a free value (R82; log entry 11). -/
def rxCell (s : State) (i : Nat) : Byte := (memRead s.rxBuf i).getD (Config.freeCell s.freeCtr i)

/-! ### Acceptance, errors, ends of operations -/

/-- The clearing of R111 (c). -/
def clearResults (s : State) : State :=
  { s with result := .none, errCode := .none, errStatus := 0, checks := .zero }

/-- R111 (b), (c): an operation issued in phase `TX` or `RX` is ignored; in `IDLE` or `DONE` the previous result is
discarded and the operation's own rule applies. -/
def accept (body : State → State) (s : State) : State := if s.phase.busy then s else body (clearResults s)

/-- `raise E(info)` (R240): the one operation that every error goes through. -/
def raise (e : ErrCode) (info : Byte) (s : State) : State :=
  { s with
    result := .err
    errCode := e
    errStatus := if e = .rejected then info else 0
    errSeen := s.errSeen ||| e.seenBit
    phase := .done }

/-- `RESULT <- OK ; PHASE <- DONE`. -/
def finishOk (s : State) : State := { s with result := .ok, phase := .done }

/-- Put a transport event out (R70). -/
def emit (e : LinkEvent) (s : State) : State := { s with link := s.link ++ [e] }

/-- `emit RxFlush` (R79): the event goes out and the input buffer `Q` is emptied (R71). -/
def emitRxFlush (s : State) : State := { s with link := s.link ++ [.rxFlush], rxQueue := [] }

/-- The discard of stale input before a request (R79), as decided by `FLUSH_RX_BEFORE_REQUEST` (R6). -/
def flushRx (s : State) : State := if cfg.flushRxBeforeRequest then emitRxFlush s else s

/-- The flush after a frame (R78), as decided by `FLUSH_TX_AFTER_FRAME` (R6). -/
def flushTx (s : State) : State := if cfg.flushTxAfterFrame then emit .txFlush s else s

/-- `TX_IDX <- 0 ; TX_SUM <- 0 ; PHASE <- TX` (R132, R162, R182). -/
def beginTransmit (s : State) : State := { s with txIdx := 0, txSum := 0, phase := .tx }

/-- R155 from the line `RX_NEED <-` on. -/
def beginReceive (s : State) : State :=
  { s with rxNeed := s.expLen.setWidth 9 + 6, rxIdx := 0, rxSum := 0, phase := .rx }

/-! ### The transmit engine -/

/-- The byte of R133 at frame index `i`: none at an unwritten `TX_BUF` cell, and past the frame. -/
def frameByte (s : State) (i : Nat) : Option Byte :=
  if i = 0 then some cfg.head0
  else if i = 1 then some cfg.head1
  else if i = 2 then some s.txAddr
  else if i = 3 then some s.txCmd
  else if i = 4 then some s.txLen
  else if i < s.txLen.toNat + 5 then memRead s.txBuf (i - 5)
  else if i = s.txLen.toNat + 5 then some s.txSum
  else none

/-- The output `tx_data` with `tx_valid` (R50): the byte offered to the transport in phase `TX`. -/
def txData (s : State) : Option Byte := if s.phase = .tx then frameByte s s.txIdx.toNat else none

/-- R134: the end of a frame. -/
def endFrame (s : State) : State := if (flushTx s).opLatch.await then beginReceive (flushTx s) else finishOk (flushTx s)

/-- R133 once the byte `b` at index `TX_IDX` is known, with R134 in the same step where the frame is complete. -/
def sendByte (b : Byte) (s : State) : State :=
  let s1 := { emit (.txByte b) s with
    txSum := if s.txIdx.toNat < s.txLen.toNat + 5 then s.txSum + b else s.txSum
    txIdx := s.txIdx + 1 }
  if s.txIdx.toNat = s.txLen.toNat + 5 then endFrame s1 else s1

/-- The transmit step: the transport accepts a byte (R133). Outside phase `TX` readiness enables nothing (R190). -/
def transmitStep (s : State) : Answer :=
  if s.phase = .tx then
    if s.txLen.toNat + 5 < s.txIdx.toNat then .fault .txIdxPastFrame
    else
      match frameByte s s.txIdx.toNat with
      | some b => .next (sendByte b s)
      | none => .refused .unwrittenTxCell
  else .next s

/-- `n` transmit steps in a row: the transport accepts `n` bytes. -/
def transmitMany : Nat → State → Answer
  | 0, s => .next s
  | n + 1, s =>
    match transmitStep s with
    | .next t => transmitMany n t
    | .fault f => .fault f
    | .refused r => .refused r

/-- R135: `TxFail`, heeded in phase `TX` only. -/
def txFailStep (s : State) : State := if s.phase = .tx then raise .io 0 s else s

/-! ### The receive engine -/

/-- `CHECKS` at the verdict (R158), from `RX_BUF` and, for `SUM_OK`, the accumulator `RX_SUM` (R41, R154; log entry 13). -/
def checksAtVerdict (s : State) : Checks where
  hdrOk := rxCell s 0 == cfg.head0 && rxCell s 1 == cfg.head1
  cmdOk := rxCell s 3 == rspCmd s.expCmd
  lenOk := rxCell s 4 == s.expLen
  sumOk := rxCell s (s.rxNeed.toNat - 1) == s.rxSum

/-- R158: the verdict. -/
def verdict (s : State) : State :=
  let s1 := { s with checks := checksAtVerdict s }
  match (checksAtVerdict s).firstFailure with
  | some e => raise e 0 s1
  | none =>
    if s.opLatch.chkStatus = true ∧ rxCell s 5 ≠ cfg.statusOk then raise .rejected (rxCell s 5) s1 else finishOk s1

/-- R156 on `RxByte(b)`, `rest` being what stays in the input buffer. -/
def takeByte (b : Byte) (rest : List Byte) (s : State) : State :=
  let s1 := { s with
    rxQueue := rest
    rxTaken := s.rxTaken + 1
    rxBuf := memWrite cfg.rxBufCells s.rxBuf s.rxIdx.toNat b
    rxSum := if s.rxIdx.toNat + 1 < s.rxNeed.toNat then s.rxSum + b else s.rxSum
    rxIdx := s.rxIdx + 1 }
  if s.rxIdx.toNat + 1 = s.rxNeed.toNat then verdict s1 else s1

/-- Whether the receive engine heeds `RxByte` and `RxTimeout` (R71, R246). -/
def receiving (s : State) : Bool := s.phase == .rx && decide (s.rxIdx.toNat < s.rxNeed.toNat)

/-- The receive step (R156): enabled only while bytes are needed and `Q` is not empty (R71). -/
def receiveStep (s : State) : State :=
  if receiving s then
    match s.rxQueue with
    | b :: rest => takeByte b rest s
    | [] => s
  else s

/-- `n` receive steps in a row. -/
def receiveMany : Nat → State → State
  | 0, s => s
  | n + 1, s => receiveMany n (receiveStep s)

/-- R157: `RxTimeout`, heeded while bytes are needed. -/
def timeoutStep (s : State) : State := if receiving s then raise .timeout 0 s else s

/-- R71: the device's bytes arrive at the back of `Q`, in any phase. -/
def arriveBytes (bytes : List Byte) (s : State) : State := { s with rxQueue := s.rxQueue ++ bytes }

/-! ### Reset -/

/-- R260, R221: every register at its reset value, `TX_BUF` and `RX_BUF` without defined contents; the environment, the
inputs to come and the transport are not touched (R261). The free values are fresh (log entry 11). -/
def resetCodec (s : State) : State :=
  { State.reset with
    rxQueue := s.rxQueue
    devBlock := s.devBlock
    devBaud := s.devBaud
    link := s.link
    rxTaken := s.rxTaken
    hostData := s.hostData
    inputs := s.inputs
    freeCtr := s.freeCtr + 1 }

end Sys2Proof.Machine
end

