-- ==== Sys2Proof/Machine/Control.lean ====
section
/-! DEFINITION. `CLEAR` and `SOFT_RESET` (spec/44_control.md R220, R221) and the reserved operation codes
(spec/30_encoding.md R112). -/

namespace Sys2Proof.Machine

/-- `CLEAR` (R220): the clearing of R111 and `PHASE <- IDLE`. -/
def execClear (s : State) : Answer := .next (accept (fun s => { s with phase := .idle }) s)

/-- `SOFT_RESET` (R221): accepted in every phase. -/
def execSoftReset (s : State) : Answer := .next (resetCodec s)

/-- A reserved code (R112): `raise E_BADOP` in phase `IDLE` or `DONE`, ignored in `TX` and `RX`. -/
def reservedOp (s : State) : State := accept (raise .badop 0) s

/-- `OP` 0x0 (R112). -/
def execReserved0 (s : State) : Answer := .next (reservedOp s)
/-- `OP` 0x8 (R112). -/
def execReserved8 (s : State) : Answer := .next (reservedOp s)
/-- `OP` 0x9 (R112). -/
def execReserved9 (s : State) : Answer := .next (reservedOp s)
/-- `OP` 0xA (R112). -/
def execReservedA (s : State) : Answer := .next (reservedOp s)
/-- `OP` 0xB (R112). -/
def execReservedB (s : State) : Answer := .next (reservedOp s)
/-- `OP` 0xC (R112). -/
def execReservedC (s : State) : Answer := .next (reservedOp s)
/-- `OP` 0xD (R112). -/
def execReservedD (s : State) : Answer := .next (reservedOp s)
/-- `OP` 0xE (R112). -/
def execReservedE (s : State) : Answer := .next (reservedOp s)

end Sys2Proof.Machine
end

