-- ==== Sys2Proof/Machine/Dispatcher.lean ====
section
/-! DEFINITION. The operation `DISPATCH` (spec/42_dispatch.md R182) and its arms (R184 to R187). -/

namespace Sys2Proof.Machine

/-- R182 for a table entry: refused unless `TX_LEN` is the table's request length. -/
def dispatchArm (e : DispatchEntry) (s : State) : State :=
  if s.txLen = e.reqLen then
    beginTransmit
      (if e.await then
        flushRx { s with
          opLatch := ⟨e.await, e.chkStatus⟩
          expCmd := s.txCmd
          expLen := e.rspLen.getD s.expLen }
      else { s with opLatch := ⟨e.await, e.chkStatus⟩ })
  else raise .badop 0 s

/-- Arm `SEND_KB_GENERAL_DATA` (R184). -/
def execDispatchKb (s : State) : Answer := .next (accept (dispatchArm entryKb) s)

/-- Arm `SEND_MS_REL_DATA` (R185). -/
def execDispatchMs (s : State) : Answer := .next (accept (dispatchArm entryMs) s)

/-- Arm `GET_PARA_CFG` (R186). -/
def execDispatchGet (s : State) : Answer := .next (accept (dispatchArm entryGet) s)

/-- Arm `SET_PARA_CFG` (R187). -/
def execDispatchSet (s : State) : Answer := .next (accept (dispatchArm entrySet) s)

/-- `DISPATCH` of a `TX_CMD` that is not in the table (R182): `raise E_BADOP`. -/
def execDispatchUnlisted (s : State) : Answer := .next (accept (raise .badop 0) s)

end Sys2Proof.Machine
end

