-- ==== Sys2Proof/Machine/Operands.lean ====
section
/-! DEFINITION. How operands become bytes and bytes become operands: the frame builder and the pure parsers
(spec/40_frame_transmit.md R130, spec/41_frame_receive.md R150 to R152), the payload formats (spec/43_payload_format.md R200,
R202, R203), the baud field (spec/20_memory.md R64), a received command byte (spec/42_dispatch.md R183), and the host's
register access (spec/10_state.md R37, R45, R46). -/

namespace Sys2Proof.Machine

/-! ### Frames -/

/-- The bytes of a frame before its checksum (R130). -/
def frameHead (a c : Byte) (p : List Byte) : List Byte :=
  cfg.head0 :: cfg.head1 :: a :: c :: BitVec.ofNat 8 p.length :: p

/-- `build_frame` (R130); for a payload above 255 bytes it is not defined (U1). -/
def buildFrame (a c : Byte) (p : List Byte) : Option (List Byte) :=
  if p.length ≤ cfg.maxPayload then some (frameHead a c p ++ [sum8 (frameHead a c p)]) else none

/-- The five fields `split_frame` yields (R150). -/
structure FrameFields where
  address : Byte
  command : Byte
  length : Byte
  payload : List Byte
  checksum : Byte
  deriving DecidableEq, Repr

/-- `split_frame` (R150): the structural cut, defined when `|s| >= 6` and `|s| = s[4] + 6`. It performs no check. -/
def splitFrame (s : List Byte) : Option FrameFields :=
  if 6 ≤ s.length ∧ s.length = (s.getD 4 0).toNat + 6 then
    some
      { address := s.getD 2 0
        command := s.getD 3 0
        length := s.getD 4 0
        payload := (s.drop 5).take (s.getD 4 0).toNat
        checksum := s.getD (5 + (s.getD 4 0).toNat) 0 }
  else none

/-- The outcome of `parse_response` (R152). -/
inductive ParseOutcome where
  | ok (payload : List Byte)
  | protocolError (field : ErrCode)
  deriving DecidableEq, Repr

/-- `parse_response` (R152), for `|s| = el + 6`; undefined elsewhere (U2). -/
def parseResponse (s : List Byte) (ec el : Byte) : Option ParseOutcome :=
  if s.length = el.toNat + cfg.overhead then
    match (checksOf s ec el).firstFailure with
    | some e => some (.protocolError e)
    | none => some (.ok ((s.drop 5).take el.toNat))
  else none

/-- R183: whether a command byte has the response bit. -/
def isResponse (r : Byte) : Bool := r.getLsbD 7

/-- R183: bits 6..0 of a command byte. -/
def commandCode (r : Byte) : BitVec 7 := r.setWidth 7

/-- R183: the request command whose response `r` would be. -/
def requestOf (r : Byte) : Byte := r &&& 0x7F

/-! ### Payloads -/

/-- `clamp` (R8). -/
def clamp (v lo hi : Int) : Int := if v < lo then lo else if hi < v then hi else v

/-- `delta_byte` (R202): saturate to ±127, then the two's-complement byte. -/
def deltaByte (v : Int) : Byte := BitVec.ofInt 8 (clamp v (-cfg.deltaMax) cfg.deltaMax)

/-- `kb_payload` (R200). -/
def kbPayload (m : Byte) (ks : List Byte) : List Byte :=
  [m, cfg.kbReserved, ks.getD 0 0, ks.getD 1 0, ks.getD 2 0, ks.getD 3 0, ks.getD 4 0, ks.getD 5 0]

/-- `ms_payload` (R203). -/
def msPayload (dx dy : Int) (buttons wheel : Byte) : List Byte :=
  [cfg.msMarker, buttons, deltaByte dx, deltaByte dy, wheel]

/-- `baud_get` (R64): the big-endian 32-bit field at offset 3. -/
def baudGet (p : Vector Byte 50) : BitVec 32 := p[3] ++ p[4] ++ p[5] ++ p[6]

/-- `baud_set` (R64). -/
def baudSet (p : Vector Byte 50) (v : BitVec 32) : Vector Byte 50 :=
  (((p.set 3 (v.extractLsb' 24 8)).set 4 (v.extractLsb' 16 8)).set 5 (v.extractLsb' 8 8)).set 6 (v.extractLsb' 0 8)

/-- The keyboard payload `FMT_KB` writes (R201): `min(KB_CNT, 6)` cells of `KB_KEY` are used. -/
def State.kbReport (s : State) : List Byte := kbPayload s.kbMod (s.kbKey.toList.take (min s.kbCnt.toNat cfg.kbKeys))

/-- The mouse payload `FMT_MS_REL` writes (R203). -/
def State.msReport (s : State) : List Byte := msPayload s.msDx.toInt s.msDy.toInt s.msBtn s.msWheel

/-- The payload of the frame in the operand registers, none where a cell below `TX_LEN` is unwritten (R24, R82). -/
def operandPayload (s : State) : Option (List Byte) := memRange s.txBuf 0 s.txLen.toNat

/-- The frame in the operand registers: `build_frame(TX_ADDR, TX_CMD, TX_BUF[0 .. TX_LEN-1])` (R132). -/
def operandFrame (s : State) : Option (List Byte) :=
  match operandPayload s with
  | some p => buildFrame s.txAddr s.txCmd p
  | none => none

/-! ### Views of `RX_BUF` (R37) -/

/-- `RSP_HEAD0` (R37). -/
def rspHead0 (s : State) : Option Byte := memRead s.rxBuf 0
/-- `RSP_HEAD1` (R37). -/
def rspHead1 (s : State) : Option Byte := memRead s.rxBuf 1
/-- `RSP_ADDR` (R37): captured, compared with nothing. -/
def rspAddr (s : State) : Option Byte := memRead s.rxBuf 2
/-- `RSP_CMD` (R37). -/
def rspCommand (s : State) : Option Byte := memRead s.rxBuf 3
/-- `RSP_LEN` (R37). -/
def rspLen (s : State) : Option Byte := memRead s.rxBuf 4
/-- `RSP_PAYLOAD[0 .. EXP_LEN-1]` (R37). -/
def rspPayload (s : State) : Option (List Byte) := memRange s.rxBuf 5 s.expLen.toNat
/-- `RSP_CHK` (R37). -/
def rspChk (s : State) : Option Byte := memRead s.rxBuf (s.rxNeed.toNat - 1)

/-! ### Host register access -/

/-- What a host read of register `no` (cell `idx`) returns (R45, R46), zero-extended to the access width; none where the
spec says "any value": `OP`, an unmapped number, an index outside the memory, a cell with no defined value (U5, U6). The
index of a register that is no memory is not looked at (log entry 14). -/
def readReg (s : State) (no : Byte) (idx : Nat) : Option Half :=
  match no.toNat with
  | 0x01 => some (s.status.setWidth 16)
  | 0x02 => some (s.errCode.code.setWidth 16)
  | 0x03 => some (s.errStatus.setWidth 16)
  | 0x04 => some (s.errSeen.setWidth 16)
  | 0x05 => some (s.txAddr.setWidth 16)
  | 0x06 => some (s.txCmd.setWidth 16)
  | 0x07 => some (s.txLen.setWidth 16)
  | 0x08 => some (s.expCmd.setWidth 16)
  | 0x09 => some (s.expLen.setWidth 16)
  | 0x0A => some (s.kbMod.setWidth 16)
  | 0x0B => some (s.kbCnt.setWidth 16)
  | 0x0C => some s.msDx
  | 0x0D => some s.msDy
  | 0x0E => some (s.msBtn.setWidth 16)
  | 0x0F => some (s.msWheel.setWidth 16)
  | 0x10 => some (s.txIdx.setWidth 16)
  | 0x11 => some (s.rxIdx.setWidth 16)
  | 0x12 => some (s.rxNeed.setWidth 16)
  | 0x13 => some (s.txSum.setWidth 16)
  | 0x14 => some (s.rxSum.setWidth 16)
  | 0x15 => some (s.opLatch.bits.setWidth 16)
  | 0x20 => s.kbKey.toList[idx]?.map (·.setWidth 16)
  | 0x40 => if idx < cfg.txBufCells then (memRead s.txBuf idx).map (·.setWidth 16) else none
  | 0x80 => if idx < cfg.rxBufCells then (memRead s.rxBuf idx).map (·.setWidth 16) else none
  | _ => none

/-- A host read (R46): the host gets the value, or a free value where any is allowed; nothing else changes. -/
def hostRead (no : Byte) (idx : Nat) (s : State) : State :=
  match readReg s no idx with
  | some v => { s with hostData := v }
  | none => { s with hostData := Config.freeRead s.freeCtr, freeCtr := s.freeCtr + 1 }

/-- A host write to a register other than `OP` in phase `IDLE` or `DONE` (R45): the value is reduced to the register's
width (R9); read-only registers, unmapped numbers and indexes outside a memory drop it (R27, R46, U6). -/
def writeReg (no : Byte) (idx : Nat) (v : Half) (s : State) : State :=
  match no.toNat with
  | 0x05 => { s with txAddr := v.setWidth 8 }
  | 0x06 => { s with txCmd := v.setWidth 8 }
  | 0x07 => { s with txLen := v.setWidth 8 }
  | 0x08 => { s with expCmd := v.setWidth 8 }
  | 0x09 => { s with expLen := v.setWidth 8 }
  | 0x0A => { s with kbMod := v.setWidth 8 }
  | 0x0B => { s with kbCnt := v.setWidth 8 }
  | 0x0C => { s with msDx := v }
  | 0x0D => { s with msDy := v }
  | 0x0E => { s with msBtn := v.setWidth 8 }
  | 0x0F => { s with msWheel := v.setWidth 8 }
  | 0x20 => { s with kbKey := s.kbKey.setIfInBounds idx (v.setWidth 8) }
  | 0x40 => { s with txBuf := memWrite cfg.txBufCells s.txBuf idx (v.setWidth 8) }
  | _ => s

/-- A host write to a register other than `OP` (R46): dropped, with no state change, in phase `TX` or `RX`. -/
def hostWrite (no : Byte) (idx : Nat) (v : Half) (s : State) : State :=
  if s.phase.busy then s else writeReg no idx v s

end Sys2Proof.Machine
end

