-- ==== Sys2Proof/Machine/Format.lean ====
section
/-! DEFINITION. The payload formatters `FMT_KB` and `FMT_MS_REL` (spec/43_payload_format.md R201, R203). -/

namespace Sys2Proof.Machine

/-- `FMT_KB` (R201): a keyboard report goes into the transmit operands, in one step. -/
def execFmtKb (s : State) : Answer :=
  .next (accept (fun s =>
    finishOk { s with
      txCmd := cfg.cmdKb
      txLen := cfg.kbLen
      txBuf := memWriteList cfg.txBufCells s.txBuf 0 s.kbReport }) s)

/-- `FMT_MS_REL` (R203): a relative mouse report goes into the transmit operands, in one step. -/
def execFmtMsRel (s : State) : Answer :=
  .next (accept (fun s =>
    finishOk { s with
      txCmd := cfg.cmdMs
      txLen := cfg.msLen
      txBuf := memWriteList cfg.txBufCells s.txBuf 0 s.msReport }) s)

end Sys2Proof.Machine
end

