-- ==== Sys2Proof/Syntax.lean ====
section
/-! DEFINITION. The instructions: one constructor per row of spec/opcode_table.json (7 wire-frame rows, 20 host-operation
rows; spec/30_encoding.md R90 to R112). -/

namespace Sys2Proof

/-- The rows of the opcode table. A wire-frame row is a frame passing on the serial link, with the fields of its payload
and its checksum byte as operands (`LEN` is the number of payload bytes; a checksum operand may be any byte, since R107
recognises a frame by its first five bytes only). A host-operation row has no operand: its operation word
`W = OP*256 + TX_CMD` (R110) is a write of `OP`, together with what the register `TX_CMD` holds. -/
inductive Instr where
  /-- `FRAME` (R90): a frame of no more specific kind. -/
  | frame (addr cmd : Byte) (data : List Byte) (chk : Byte)
  /-- `SEND_KB_GENERAL_DATA.req` (R95). -/
  | kbReq (addr modifiers reserved : Byte) (keys : List Byte) (chk : Byte)
  /-- `SEND_MS_REL_DATA.req` (R96). -/
  | msReq (addr marker buttons dx dy wheel chk : Byte)
  /-- `GET_PARA_CFG.req` (R97). -/
  | getReq (addr chk : Byte)
  /-- `GET_PARA_CFG.rsp` (R98). -/
  | getRsp (addr : Byte) (block : List Byte) (chk : Byte)
  /-- `SET_PARA_CFG.req` (R99). -/
  | setReq (addr : Byte) (block : List Byte) (chk : Byte)
  /-- `SET_PARA_CFG.rsp` (R100). -/
  | setRsp (addr status chk : Byte)
  /-- `SEND`, OP 0x1 (R132). -/
  | send
  /-- `RECV`, OP 0x2 (R155). -/
  | recv
  /-- `XFER`, OP 0x3 (R162). -/
  | xfer
  /-- `DISPATCH.SEND_KB_GENERAL_DATA`, OP 0x4 with `TX_CMD` = 0x02 (R184). -/
  | dispatchKb
  /-- `DISPATCH.SEND_MS_REL_DATA`, OP 0x4 with `TX_CMD` = 0x05 (R185). -/
  | dispatchMs
  /-- `DISPATCH.GET_PARA_CFG`, OP 0x4 with `TX_CMD` = 0x08 (R186). -/
  | dispatchGet
  /-- `DISPATCH.SET_PARA_CFG`, OP 0x4 with `TX_CMD` = 0x09 (R187). -/
  | dispatchSet
  /-- `DISPATCH.unlisted`, OP 0x4 with any other `TX_CMD` (R182). -/
  | dispatchUnlisted
  /-- `FMT_KB`, OP 0x5 (R201). -/
  | fmtKb
  /-- `FMT_MS_REL`, OP 0x6 (R203). -/
  | fmtMsRel
  /-- `CLEAR`, OP 0x7 (R220). -/
  | clear
  /-- `SOFT_RESET`, OP 0xF (R221). -/
  | softReset
  /-- `RESERVED_OP_0x0` (R112); this and the next seven: log entry 8. -/
  | reserved0
  /-- `RESERVED_OP_0x8` (R112). -/
  | reserved8
  /-- `RESERVED_OP_0x9` (R112). -/
  | reserved9
  /-- `RESERVED_OP_0xA` (R112). -/
  | reservedA
  /-- `RESERVED_OP_0xB` (R112). -/
  | reservedB
  /-- `RESERVED_OP_0xC` (R112). -/
  | reservedC
  /-- `RESERVED_OP_0xD` (R112). -/
  | reservedD
  /-- `RESERVED_OP_0xE` (R112). -/
  | reservedE
  deriving DecidableEq, Repr

end Sys2Proof
end

