-- ==== Sys2Proof/WellFormed.lean ====
section
/-! DEFINITION. Which terms of `Instr` are instructions: the payload lengths of spec/30_encoding.md R95 to R100, the bound
of R92 on a generic frame, and R107's "the specific row wins". -/

namespace Sys2Proof

/-- R94, R107: the (command, length) pairs that a row more specific than `FRAME` masks. -/
def isSpecificKind (cmd : Byte) (len : Nat) : Bool :=
  (cmd == cfg.cmdKb && len == cfg.kbLen.toNat)
    || (cmd == cfg.cmdMs && len == cfg.msLen.toNat)
    || (cmd == cfg.cmdGet && len == cfg.getReqLen.toNat)
    || (cmd == (cfg.cmdGet ||| cfg.rspBit) && len == cfg.getRspLen.toNat)
    || (cmd == cfg.cmdSet && len == cfg.setReqLen.toNat)
    || (cmd == (cfg.cmdSet ||| cfg.rspBit) && len == cfg.setRspLen.toNat)

/-- The checks of a term of `Instr`. -/
def Instr.wellFormed : Instr → Bool
  | .frame _ cmd data _ => decide (data.length ≤ cfg.maxPayload) && !isSpecificKind cmd data.length
  | .kbReq _ _ _ keys _ => keys.length == cfg.kbKeys
  | .msReq _ _ _ _ _ _ _ => true
  | .getReq _ _ => true
  | .getRsp _ block _ => block.length == cfg.paraLen.toNat
  | .setReq _ block _ => block.length == cfg.paraLen.toNat
  | .setRsp _ _ _ => true
  | .send => true
  | .recv => true
  | .xfer => true
  | .dispatchKb => true
  | .dispatchMs => true
  | .dispatchGet => true
  | .dispatchSet => true
  | .dispatchUnlisted => true
  | .fmtKb => true
  | .fmtMsRel => true
  | .clear => true
  | .softReset => true
  | .reserved0 => true
  | .reserved8 => true
  | .reserved9 => true
  | .reservedA => true
  | .reservedB => true
  | .reservedC => true
  | .reservedD => true
  | .reservedE => true

end Sys2Proof
end

