-- ==== Sys2Proof/Decode.lean ====
section
/-! DEFINITION. The decoder of both encodings of the opcode table, from bytes: the wire frames (spec/30_encoding.md R90,
R107) and the operation words (R110, R112), and the encoder written from the same tables. -/

namespace Sys2Proof

/-- Why a byte string is no instruction. -/
inductive DecodeError where
  /-- Neither the two bytes of an operation word nor the six of the shortest frame (R92). -/
  | badSize (n : Nat)
  /-- Two bytes whose value is above 0xFFF: `W` has 12 bits (R110). -/
  | notAnOperationWord
  /-- The first two bytes are not `HEAD0 HEAD1` (R90). -/
  | badHeader
  /-- The number of bytes is not `LEN + 6` (R92). -/
  | badLength (declared given : Nat)
  deriving DecidableEq, Repr

/-- R110: the operation that a write of code `op` issues, `TX_CMD` holding `txCmd`. Total over the sixteen codes. -/
def decodeOp (op : BitVec 4) (txCmd : Byte) : Instr :=
  match op.toNat with
  | 0x1 => .send
  | 0x2 => .recv
  | 0x3 => .xfer
  | 0x4 =>
    if txCmd = cfg.cmdKb then .dispatchKb
    else if txCmd = cfg.cmdMs then .dispatchMs
    else if txCmd = cfg.cmdGet then .dispatchGet
    else if txCmd = cfg.cmdSet then .dispatchSet
    else .dispatchUnlisted
  | 0x5 => .fmtKb
  | 0x6 => .fmtMsRel
  | 0x7 => .clear
  | 0x8 => .reserved8
  | 0x9 => .reserved9
  | 0xA => .reservedA
  | 0xB => .reservedB
  | 0xC => .reservedC
  | 0xD => .reservedD
  | 0xE => .reservedE
  | 0xF => .softReset
  | _ => .reserved0

/-- R107: the frame kind of a frame with these fields, the specific row winning over `FRAME`. -/
def frameKind (addr cmd : Byte) (data : List Byte) (chk : Byte) : Instr :=
  if isSpecificKind cmd data.length then
    if cmd = cfg.cmdKb then
      match data with
      | modifiers :: reserved :: keys => .kbReq addr modifiers reserved keys chk
      | _ => .frame addr cmd data chk
    else if cmd = cfg.cmdMs then
      match data with
      | [marker, buttons, dx, dy, wheel] => .msReq addr marker buttons dx dy wheel chk
      | _ => .frame addr cmd data chk
    else if cmd = cfg.cmdGet then .getReq addr chk
    else if cmd = cfg.cmdSet then .setReq addr data chk
    else if cmd = cfg.cmdGet ||| cfg.rspBit then .getRsp addr data chk
    else
      match data with
      | [status] => .setRsp addr status chk
      | _ => .frame addr cmd data chk
  else .frame addr cmd data chk

/-- R90, R106 (a): the frame in a byte string, cut by its own length byte. -/
def decodeFrame : List Byte → Except DecodeError Instr
  | h0 :: h1 :: addr :: cmd :: len :: rest =>
    if h0 = cfg.head0 ∧ h1 = cfg.head1 then
      if rest.length = len.toNat + 1 then
        .ok (frameKind addr cmd (rest.take len.toNat) (rest.getD len.toNat 0))
      else .error (.badLength (len.toNat + cfg.overhead) (rest.length + 5))
    else .error .badHeader
  | bs => .error (.badSize bs.length)

/-- The decoder. Two bytes are an operation word, `OP` first (log entry 6); anything longer is a frame. -/
def decode : List Byte → Except DecodeError Instr
  | [b0, b1] => if b0.toNat < 16 then .ok (decodeOp (b0.setWidth 4) b1) else .error .notAnOperationWord
  | bs => decodeFrame bs

/-- R90: the bytes of a frame with the given fields. -/
def frameBytes (addr cmd : Byte) (data : List Byte) (chk : Byte) : List Byte :=
  cfg.head0 :: cfg.head1 :: addr :: cmd :: BitVec.ofNat 8 data.length :: (data ++ [chk])

/-- R110: the two bytes of an operation word. -/
def opWordBytes (op : BitVec 4) (txCmd : Byte) : List Byte := [op.setWidth 8, txCmd]

/-- The bytes of an instruction. Where a row does not mask `TX_CMD`, its bits are 0, as in the row's `match`
(log entry 6); `decodeOp` answers the same instruction whatever they are. -/
def encode : Instr → List Byte
  | .frame addr cmd data chk => frameBytes addr cmd data chk
  | .kbReq addr modifiers reserved keys chk => frameBytes addr cfg.cmdKb (modifiers :: reserved :: keys) chk
  | .msReq addr marker buttons dx dy wheel chk => frameBytes addr cfg.cmdMs [marker, buttons, dx, dy, wheel] chk
  | .getReq addr chk => frameBytes addr cfg.cmdGet [] chk
  | .getRsp addr block chk => frameBytes addr (cfg.cmdGet ||| cfg.rspBit) block chk
  | .setReq addr block chk => frameBytes addr cfg.cmdSet block chk
  | .setRsp addr status chk => frameBytes addr (cfg.cmdSet ||| cfg.rspBit) [status] chk
  | .send => opWordBytes 0x1 0
  | .recv => opWordBytes 0x2 0
  | .xfer => opWordBytes 0x3 0
  | .dispatchKb => opWordBytes 0x4 cfg.cmdKb
  | .dispatchMs => opWordBytes 0x4 cfg.cmdMs
  | .dispatchGet => opWordBytes 0x4 cfg.cmdGet
  | .dispatchSet => opWordBytes 0x4 cfg.cmdSet
  | .dispatchUnlisted => opWordBytes 0x4 0
  | .fmtKb => opWordBytes 0x5 0
  | .fmtMsRel => opWordBytes 0x6 0
  | .clear => opWordBytes 0x7 0
  | .softReset => opWordBytes 0xF 0
  | .reserved0 => opWordBytes 0x0 0
  | .reserved8 => opWordBytes 0x8 0
  | .reserved9 => opWordBytes 0x9 0
  | .reservedA => opWordBytes 0xA 0
  | .reservedB => opWordBytes 0xB 0
  | .reservedC => opWordBytes 0xC 0
  | .reservedD => opWordBytes 0xD 0
  | .reservedE => opWordBytes 0xE 0

/-- Byte `k` after the five of the frame prefix `P` (R107), in a table word whose later bits count on from bit 40. -/
def tableTail (w : Nat) : Nat → Nat → List Byte
  | _, 0 => []
  | k, n + 1 => BitVec.ofNat 8 (w >>> (40 + 8 * k)) :: tableTail w (k + 1) n

/-- The bytes of a word of spec/opcode_table.json: an operation word `W` (at most 16 bits), or a frame prefix `P` (R107,
offset 0 most significant) followed by as many payload and checksum bytes as its `LEN` asks for. -/
def tableBytes (nbits w : Nat) : List Byte :=
  if nbits ≤ 16 then [BitVec.ofNat 8 (w >>> 8), BitVec.ofNat 8 w]
  else
    BitVec.ofNat 8 (w >>> 32) :: BitVec.ofNat 8 (w >>> 24) :: BitVec.ofNat 8 (w >>> 16) :: BitVec.ofNat 8 (w >>> 8)
      :: BitVec.ofNat 8 w :: tableTail w 0 ((BitVec.ofNat 8 w).toNat + 1)

/-- The instruction the decoder reads from a table word. -/
def decodeTableWord (nbits w : Nat) : Option Instr :=
  match decode (tableBytes nbits w) with
  | .ok i => some i
  | .error _ => none

end Sys2Proof
end

