-- ==== Sys2Proof/Machine/Frame.lean ====
section
/-! DEFINITION. The wire-frame rows: a whole frame passes on the serial link (spec/30_encoding.md R90 to R101, R107;
spec/20_memory.md R70, R71; log entry 4). -/

namespace Sys2Proof.Machine

/-- The first five bytes of the frame in the operand registers (R90). -/
def frameStart (s : State) : List Byte := [cfg.head0, cfg.head1, s.txAddr, s.txCmd, s.txLen]

/-- A request frame passes, host to device: the transport accepts the whole frame, one `write(bytes)` (R70), which is the
transmit step of R133 once per byte. It can only be the frame the transmit engine stands at the start of; where the codec
is not sending it, nothing happens (log entry 4). Where the payload has an unwritten cell, the frame being sent has no
defined bytes past its first five, and one that begins like it is refused (R82; log entry 9). -/
def frameOut (bytes : List Byte) (s : State) : Answer :=
  if s.phase = .tx ∧ s.txIdx = 0 ∧ s.txSum = 0 then
    match operandFrame s with
    | some f => if f = bytes then transmitMany f.length s else .next s
    | none => if bytes.take 5 = frameStart s then .refused .unwrittenTxCell else .next s
  else .next s

/-- A frame passes, device to host: its bytes arrive in the input buffer (R71), and the receive engine, where it runs,
takes bytes while it needs any, one `read(n, timeout)` (R70, R156); in every other phase they wait there. -/
def receiveFrame (bytes : List Byte) (s : State) : State :=
  receiveMany (s.rxQueue.length + bytes.length) (arriveBytes bytes s)

/-- `FRAME` (R90): the bit `RSP` of the command byte says which way the frame goes (log entry 4). -/
def execFrame (addr cmd : Byte) (data : List Byte) (chk : Byte) (s : State) : Answer :=
  if isResponse cmd then .next (receiveFrame (encode (.frame addr cmd data chk)) s)
  else frameOut (encode (.frame addr cmd data chk)) s

/-- `SEND_KB_GENERAL_DATA.req` (R95, R184): host to device. -/
def execKbReq (addr modifiers reserved : Byte) (keys : List Byte) (chk : Byte) (s : State) : Answer :=
  frameOut (encode (.kbReq addr modifiers reserved keys chk)) s

/-- `SEND_MS_REL_DATA.req` (R96, R185): host to device. -/
def execMsReq (addr marker buttons dx dy wheel chk : Byte) (s : State) : Answer :=
  frameOut (encode (.msReq addr marker buttons dx dy wheel chk)) s

/-- `GET_PARA_CFG.req` (R97, R186): host to device. -/
def execGetReq (addr chk : Byte) (s : State) : Answer := frameOut (encode (.getReq addr chk)) s

/-- `GET_PARA_CFG.rsp` (R98, R186): device to host. -/
def execGetRsp (addr : Byte) (block : List Byte) (chk : Byte) (s : State) : Answer :=
  .next (receiveFrame (encode (.getRsp addr block chk)) s)

/-- `SET_PARA_CFG.req` (R99, R187): host to device. -/
def execSetReq (addr : Byte) (block : List Byte) (chk : Byte) (s : State) : Answer :=
  frameOut (encode (.setReq addr block chk)) s

/-- `SET_PARA_CFG.rsp` (R100, R187): device to host. -/
def execSetRsp (addr status chk : Byte) (s : State) : Answer :=
  .next (receiveFrame (encode (.setRsp addr status chk)) s)

end Sys2Proof.Machine
end

