-- ==== Sys2Proof/Machine/Transfer.lean ====
section
/-! DEFINITION. The generic operations `SEND` (spec/40_frame_transmit.md R132), `RECV` and `XFER`
(spec/41_frame_receive.md R155, R162). -/

namespace Sys2Proof.Machine

/-- `SEND` (R132): the transmit phase begins, nothing is awaited. -/
def execSend (s : State) : Answer :=
  .next (accept (fun s => beginTransmit { s with opLatch := ⟨false, false⟩ }) s)

/-- `RECV` (R155): the receive phase begins. -/
def execRecv (s : State) : Answer :=
  .next (accept (fun s => beginReceive { s with opLatch := ⟨false, false⟩ }) s)

/-- `XFER` (R162): stale input is discarded, the transmit phase begins, a response to `TX_CMD` is awaited after it. -/
def execXfer (s : State) : Answer :=
  .next (accept (fun s => beginTransmit (flushRx { s with opLatch := ⟨true, false⟩, expCmd := s.txCmd })) s)

end Sys2Proof.Machine
end

