-- ==== Sys2Proof/Machine/Dispatch.lean ====
section
/-! DEFINITION. Every instruction's meaning, one arm per row of spec/opcode_table.json. -/

namespace Sys2Proof.Machine

def exec (i : Instr) (s : State) : Host.Outcome State Fault Refusal :=
  match i with
  | .frame addr cmd data chk => Sys2Proof.Machine.execFrame addr cmd data chk s
  | .kbReq addr modifiers reserved keys chk => Sys2Proof.Machine.execKbReq addr modifiers reserved keys chk s
  | .msReq addr marker buttons dx dy wheel chk => Sys2Proof.Machine.execMsReq addr marker buttons dx dy wheel chk s
  | .getReq addr chk => Sys2Proof.Machine.execGetReq addr chk s
  | .getRsp addr block chk => Sys2Proof.Machine.execGetRsp addr block chk s
  | .setReq addr block chk => Sys2Proof.Machine.execSetReq addr block chk s
  | .setRsp addr status chk => Sys2Proof.Machine.execSetRsp addr status chk s
  | .send => Sys2Proof.Machine.execSend s
  | .recv => Sys2Proof.Machine.execRecv s
  | .xfer => Sys2Proof.Machine.execXfer s
  | .dispatchKb => Sys2Proof.Machine.execDispatchKb s
  | .dispatchMs => Sys2Proof.Machine.execDispatchMs s
  | .dispatchGet => Sys2Proof.Machine.execDispatchGet s
  | .dispatchSet => Sys2Proof.Machine.execDispatchSet s
  | .dispatchUnlisted => Sys2Proof.Machine.execDispatchUnlisted s
  | .fmtKb => Sys2Proof.Machine.execFmtKb s
  | .fmtMsRel => Sys2Proof.Machine.execFmtMsRel s
  | .clear => Sys2Proof.Machine.execClear s
  | .softReset => Sys2Proof.Machine.execSoftReset s
  | .reserved0 => Sys2Proof.Machine.execReserved0 s
  | .reserved8 => Sys2Proof.Machine.execReserved8 s
  | .reserved9 => Sys2Proof.Machine.execReserved9 s
  | .reservedA => Sys2Proof.Machine.execReservedA s
  | .reservedB => Sys2Proof.Machine.execReservedB s
  | .reservedC => Sys2Proof.Machine.execReservedC s
  | .reservedD => Sys2Proof.Machine.execReservedD s
  | .reservedE => Sys2Proof.Machine.execReservedE s

end Sys2Proof.Machine
end

