-- ==== Sys2Proof/Machine/Events.lean ====
section
/-! DEFINITION. How the next instruction is fetched from the inputs to come (spec/10_state.md R47, spec/30_encoding.md R110;
log entries 1, 2), what every other input does (spec/42_dispatch.md R190, spec/60_exceptions.md R246), and host programs
(spec/30_encoding.md R115, R116). -/

namespace Sys2Proof.Machine

/-- The state with its next input consumed. -/
def dropInput (s : State) : State := { s with inputs := s.inputs.tail }

/-- The bytes of the next instruction, if the next input is one: a host write of `OP`, whose value is reduced to 4 bits and
stands with `TX_CMD` in the operation word (R47, R110), or bytes on the link, where they can be a frame (R92): nothing on
the link is an operation word. -/
def fetch (s : State) : Option (List Byte) :=
  match s.inputs with
  | .wr no _ v :: _ => if no = 0x00 then some (opWordBytes (v.setWidth 4) s.txCmd) else none
  | .link bytes :: _ => if cfg.overhead ≤ bytes.length then some bytes else none
  | _ => none

/-- What an input that is no instruction does, the input already consumed. -/
def eventStep (e : Input) (s : State) : Answer :=
  match e with
  | .wr no idx v => .next (hostWrite no idx v s)
  | .rd no idx => .next (hostRead no idx s)
  | .link bytes => .next (receiveFrame bytes s)
  | .arrive bytes => .next (arriveBytes bytes s)
  | .txReady => transmitStep s
  | .txFail => .next (txFailStep s)
  | .rxByte => .next (receiveStep s)
  | .rxTimeout => .next (timeoutStep s)
  | .rst => .next (resetCodec s)
  | .devStore block => .next { s with devBlock := block }
  | .devPowerCycle => .next { s with devBaud := baudGet s.devBlock }

/-- A step whose next input is no instruction. Without any input nothing happens: the codec waits (R278, U15). -/
def idleStep (s : State) : Answer :=
  match s.inputs with
  | [] => .next s
  | e :: _ => eventStep e (dropInput s)

/-! ### Host programs -/

/-- The inputs that are actions of the host: its writes (the issue of an operation among them) and its reads (R115; log
entry 24). Every other input is an event of the environment or of the `rst` signal. -/
def Input.isHostAction : Input → Bool
  | .wr _ _ _ => true
  | .rd _ _ => true
  | .link _ => false
  | .arrive _ => false
  | .txReady => false
  | .txFail => false
  | .rxByte => false
  | .rxTimeout => false
  | .rst => false
  | .devStore _ => false
  | .devPowerCycle => false

/-- `wr REG, value` (R115). -/
def wrReg (no : Byte) (v : Half) : Input := .wr no 0 v

/-- `op` (R115): a write of the operation's code to `OP`. -/
def issueOp (code : Half) : Input := .wr 0x00 0 code

/-- `env rx b b ...` with the receive engine taking the bytes as they come (R115). -/
def envRx (bytes : List Byte) : List Input := .arrive bytes :: bytes.map fun _ => .rxByte

/-- `wr MEM[i..j], b b ...` (R115). -/
def wrCells (no : Byte) : Nat → List Byte → List Input
  | _, [] => []
  | i, b :: bs => .wr no i (b.setWidth 16) :: wrCells no (i + 1) bs

/-- R265 (3): the host writes the device's address before the first transmitting operation. -/
def setupProgram : List Input := [wrReg 0x05 (Config.devAddr.setWidth 16)]

/-- `RELEASE_ALL` (R116). -/
def releaseAll : List Input := [wrReg 0x0A 0x00, wrReg 0x0B 0, issueOp 0x5, issueOp 0x4]

/-- `KEY_TAP k, m` (R116): the host's inputs; the transport's events come between the two reports. -/
def keyTap (k m : Byte) : List Input :=
  [wrReg 0x0A (m.setWidth 16), .wr 0x20 0 (k.setWidth 16), wrReg 0x0B 1, issueOp 0x5, issueOp 0x4] ++ releaseAll

/-- `PARA_RMW f` (R116), first half: the `GET_PARA_CFG` exchange. -/
def paraGet : List Input := [wrReg 0x06 0x08, wrReg 0x07 0, issueOp 0x4]

/-- `PARA_RMW f` (R116), second half, as the host issues it when the first has ended: only after `RESULT = OK` (R273), with
the 50 bytes received, changed by `f`. -/
def paraSet (f : List Byte → List Byte) (s : State) : List Input :=
  match s.phase, s.result, rspPayload s with
  | .done, .ok, some block => wrCells 0x40 0 (f block) ++ [wrReg 0x06 0x09, wrReg 0x07 50, issueOp 0x4]
  | _, _, _ => []

end Sys2Proof.Machine
end

