-- ==== Sys2Proof/Machine/Step.lean ====
section
/-! DEFINITION. One step of the machine: the next input happens (spec/00_scope.md R10; log entries 1 to 3). -/

namespace Sys2Proof.Machine

/-- One step. An instruction is fetched, decoded and run; bytes on the link that are no frame arrive as they are (log entry
7); any other input has its own rule. -/
def step (s : State) : Host.Outcome State Fault Refusal :=
  match fetch s with
  | some bytes =>
    match decode bytes with
    | .ok i => exec i (dropInput s)
    | .error _ => .next (receiveFrame bytes (dropInput s))
  | none => idleStep s

/-- `s` with a table word as its next instruction: an operation word is what the host writes to `OP` together with what
`TX_CMD` holds (R110), so both are set; a frame is the next thing on the link. -/
def State.withFetchWord (s : State) (nbits w : Nat) : State :=
  if nbits ≤ 16 then
    { s with txCmd := BitVec.ofNat 8 w, inputs := .wr 0x00 0 (BitVec.ofNat 16 (w >>> 8)) :: s.inputs }
  else { s with inputs := .link (tableBytes nbits w) :: s.inputs }

end Sys2Proof.Machine
end

