-- ==== Sys2Proof/Safety.lean ====
section
/-! DEFINITION. What holds of every reachable state of the codec (`Inv`), when a run is over and good (spec/70_reset_and_hazards.md
R279), and what a host must respect (R265, R270, R273). -/

namespace Sys2Proof.Machine

/-- The host may issue an operation and write operands (R111 (c), R46). -/
def Ready (s : State) : Prop := s.phase = .idle ∨ s.phase = .done

/-- The host operations other than `SOFT_RESET` (R110, R112). -/
def ordinaryOps : List Instr :=
  [.send, .recv, .xfer, .dispatchKb, .dispatchMs, .dispatchGet, .dispatchSet, .dispatchUnlisted, .fmtKb, .fmtMsRel, .clear,
    .reserved0, .reserved8, .reserved9, .reservedA, .reservedB, .reservedC, .reservedD, .reservedE]

/-- A frame that goes from the host to the device: the four request rows, and `FRAME` with `RSP` = 0. -/
def isRequestFrame : Instr → Bool
  | .frame _ cmd _ _ => !cmd.getLsbD 7
  | .kbReq _ _ _ _ _ => true
  | .msReq _ _ _ _ _ _ _ => true
  | .getReq _ _ => true
  | .setReq _ _ _ => true
  | _ => false

/-- A frame that goes from the device to the host: the two response rows, and `FRAME` with `RSP` = 1. -/
def isDeviceFrame : Instr → Bool
  | .frame _ cmd _ _ => cmd.getLsbD 7
  | .getRsp _ _ _ => true
  | .setRsp _ _ _ => true
  | _ => false

/-- What every step keeps. -/
structure Inv (s : State) : Prop where
  /-- The byte memories have their canonical form and their sizes (R60). -/
  txBufWf : Memory.wf cfg.txBufCells s.txBuf = true
  rxBufWf : Memory.wf cfg.rxBufCells s.rxBuf = true
  /-- `RESULT` is `NONE` exactly when `PHASE` is not `DONE` (R40). -/
  resultPhase : s.result = .none ↔ s.phase ≠ .done
  /-- `ERR_CODE` is `E_NONE` unless `RESULT = ERR` (R42), and then it is not. -/
  errCodeResult : s.errCode ≠ .none ↔ s.result = .err
  /-- `ERR_STATUS` is nonzero exactly after `E_REJECTED` (R43, R236). -/
  errStatusCode : s.errStatus ≠ 0 ↔ s.errCode = .rejected
  /-- `ERR_SEEN` bit 0 is always 0, and the latest cause is recorded (R44, R240). -/
  seenZero : s.errSeen.getLsbD 0 = false
  seenLatest : s.errCode ≠ .none → s.errSeen.getLsbD s.errCode.code.toNat = true
  /-- `CHECKS` is 0 until a verdict (R41, R111). -/
  checksClear : s.phase ≠ .done → s.checks = .zero
  /-- The counters never pass the longest frame (R31, R32). -/
  txIdxMax : s.txIdx.toNat ≤ 261
  rxNeedMax : s.rxNeed.toNat ≤ 261
  rxIdxLe : s.rxIdx.toNat ≤ s.rxNeed.toNat
  /-- In phase `TX` at least one byte remains (R31, R133), and `TX_SUM` is the sum of the bytes sent (R33). -/
  txWithin : s.phase = .tx → s.txIdx.toNat ≤ s.txLen.toNat + 5
  txSumIs : s.phase = .tx → ∀ f, operandFrame s = some f → s.txSum = sum8 (f.take s.txIdx.toNat)
  /-- In phase `RX` exactly `EXP_LEN + 6` bytes are needed (R32), at least one is missing, and `RX_BUF` and `RX_SUM` hold
  the bytes taken and their sum (R34, R36). -/
  rxNeedIs : s.phase = .rx → s.rxNeed = s.expLen.setWidth 9 + 6
  rxWithin : s.phase = .rx → s.rxIdx.toNat < s.rxNeed.toNat
  rxCells : s.phase = .rx → ∃ bs, memRange s.rxBuf 0 s.rxIdx.toNat = some bs ∧ s.rxSum = sum8 bs
  /-- `CHK_STATUS` goes with `AWAIT`, and while an operation with it runs a one-byte payload is expected (R35, R181). -/
  latch : s.opLatch.chkStatus = true → s.opLatch.await = true
  latchLen : s.opLatch.chkStatus = true → s.phase = .tx ∨ s.phase = .rx → s.expLen = cfg.setRspLen
  /-- While an operation that awaits a response is in its transmit phase, the response awaited is the request's (R25). -/
  awaitCmd : s.opLatch.await = true → s.phase = .tx → s.expCmd = s.txCmd

/-- R279: the run is over: the host has performed its last action and no operation runs. Events of the environment may
still come. -/
def RunOver (s : State) : Prop := (∀ e ∈ s.inputs, e.isHostAction = false) ∧ Ready s

/-- R279: the run is over and good. -/
def RunGood (s : State) : Prop := RunOver s ∧ s.errSeen = 0

/-- R279: what can be observed of a run: the transport output events, the number of bytes taken from the input buffer, and
the codec's registers and defined cells. The rest of the state is put at fixed values. -/
def outcome (s : State) : State :=
  { s with rxQueue := [], devBlock := resetDevBlock, devBaud := 9600, hostData := 0, inputs := [], freeCtr := 0 }

/-- R265 (4), R82: every `TX_BUF` cell that a transmit of the operands would read has been written. -/
def PayloadWritten (s : State) : Prop := (operandPayload s).isSome = true

/-- R270: an input that the codec would ignore or drop without any sign, for a host to avoid. -/
def HostMustWait (s : State) (e : Input) : Prop :=
  s.phase.busy = true ∧ ∃ no idx v, e = .wr no idx v ∧ ¬(no = 0x00 ∧ v.setWidth 4 = 0xF)

/-- R273: the host may go on from the GET to the SET only after `RESULT = OK`. -/
def SetAllowed (s : State) : Prop := s.phase = .done ∧ s.result = .ok

end Sys2Proof.Machine
end

