-- ==== Sys2Proof/Certificates/Slice0/Obligations.lean ====
section
/-! DEFINITION. The statements for the provers, from the numbered rules of spec/. -/

open Sys2Proof Sys2Proof.Machine

namespace Sys2Proof.Machine

/-! ### What the statements below speak of -/

/-- The state once an operation has been accepted and the previous result discarded (R111 (c)). -/
def acceptedState (s : State) : State :=
  { s with result := .none, errCode := .none, errStatus := 0, checks := ⟨false, false, false, false⟩ }

/-- The state after an operation has been refused with `E_BADOP` in phase `IDLE` or `DONE` (R111, R238, R240). -/
def badopState (s : State) : State :=
  { s with
    result := .err
    errCode := .badop
    errStatus := 0
    checks := ⟨false, false, false, false⟩
    errSeen := s.errSeen ||| 0x100
    phase := .done }

/-- The state after the frame `f`, in the operand registers, has been handed over in full (R133, R134): `TX_IDX` bytes are
counted, `TX_SUM` is the checksum sent, and either the operation has ended or its response is awaited. -/
def handedOver (f : List Byte) (s : State) : State :=
  if s.opLatch.await then
    { s with
      link := s.link ++ (f.map .txByte ++ [.txFlush])
      txIdx := BitVec.ofNat 9 f.length
      txSum := f.getD (f.length - 1) 0
      rxNeed := s.expLen.setWidth 9 + 6
      rxIdx := 0
      rxSum := 0
      phase := .rx }
  else
    { s with
      link := s.link ++ (f.map .txByte ++ [.txFlush])
      txIdx := BitVec.ofNat 9 f.length
      txSum := f.getD (f.length - 1) 0
      result := .ok
      phase := .done }

/-- The start of a receive phase (R155) with nothing in the input buffer yet. -/
def AwaitsResponse (s : State) : Prop :=
  s.phase = .rx ∧ s.rxIdx = 0 ∧ s.rxSum = 0 ∧ s.rxNeed = s.expLen.setWidth 9 + 6 ∧ s.rxQueue = [] ∧
    Memory.wf cfg.rxBufCells s.rxBuf = true

/-- What a receive of the bytes `f` leaves of a state, but for the result registers and the phase (R156, R159). -/
def readState (f : List Byte) (s t : State) : State :=
  { s with
    rxIdx := BitVec.ofNat 9 f.length
    rxSum := sum8 (f.take (f.length - 1))
    rxBuf := t.rxBuf
    rxTaken := s.rxTaken + f.length
    rxQueue := []
    checks := t.checks
    result := t.result
    errCode := t.errCode
    errStatus := t.errStatus
    errSeen := t.errSeen
    phase := .done }

/-- A receive phase in which the bytes `old` have been taken and at least one is missing, whatever waits in the input buffer
(R32, R34, R36): a phase `RX` of every state that meets `Inv` is one. -/
def Receiving (old : List Byte) (s : State) : Prop :=
  s.phase = .rx ∧ s.rxNeed = s.expLen.setWidth 9 + 6 ∧ s.rxIdx.toNat < s.rxNeed.toNat ∧
    memRange s.rxBuf 0 s.rxIdx.toNat = some old ∧ s.rxSum = sum8 old ∧ Memory.wf cfg.rxBufCells s.rxBuf = true

/-- `t` is `s`, a receive phase, after `n` more bytes have been taken and more are awaited: `r` is all taken so far, `q` stays
in the input buffer (R156). -/
def TakenSoFar (r : List Byte) (n : Nat) (q : List Byte) (s t : State) : Prop :=
  t = { s with
    rxIdx := BitVec.ofNat 9 r.length
    rxSum := sum8 r
    rxBuf := t.rxBuf
    rxTaken := s.rxTaken + n
    rxQueue := q } ∧
  memRange t.rxBuf 0 r.length = some r ∧ ∀ a, r.length ≤ a → memRead t.rxBuf a = memRead s.rxBuf a

/-- `t` is `s`, a receive phase, once it has ended with the bytes `r` taken in full, `n` of them since `s`, and `q` left in
the input buffer (R156, R158, R159): the four checks of R151 are those on `r`, and the outcome is that of `parse_response`
on `r` with the status test after it, an error recorded as R240 says. -/
def ReadAndJudged (r : List Byte) (n : Nat) (q : List Byte) (s t : State) : Prop :=
  t = { s with
    rxIdx := BitVec.ofNat 9 r.length
    rxSum := sum8 (r.take (r.length - 1))
    rxBuf := t.rxBuf
    rxTaken := s.rxTaken + n
    rxQueue := q
    checks := checksOf r s.expCmd s.expLen
    result := t.result
    errCode := t.errCode
    errStatus := t.errStatus
    errSeen := t.errSeen
    phase := .done } ∧
  memRange t.rxBuf 0 r.length = some r ∧ (∀ a, r.length ≤ a → memRead t.rxBuf a = memRead s.rxBuf a) ∧
  match parseResponse r s.expCmd s.expLen with
  | some (.protocolError e) =>
    t.result = .err ∧ t.errCode = e ∧ t.errStatus = 0x00 ∧ t.errSeen = s.errSeen ||| e.seenBit
  | some (.ok p) =>
    if s.opLatch.chkStatus = true ∧ r.getD 5 0 ≠ 0x00 then
      t.result = .err ∧ t.errCode = .rejected ∧ t.errStatus = r.getD 5 0 ∧ t.errSeen = s.errSeen ||| 0x040
    else
      t.result = .ok ∧ t.errCode = s.errCode ∧ t.errStatus = s.errStatus ∧ t.errSeen = s.errSeen ∧
        rspPayload t = some p
  | none => False

/-- What the bytes `q`, all that stand in the input buffer, do to a receive phase that takes them in one go (R156, R158):
fewer than are missing are taken whole, else as many as are missing are taken and judged, and the others stay. -/
def ReadInOneGo (old q : List Byte) (s t : State) : Prop :=
  (old.length + q.length < s.expLen.toNat + 6 → TakenSoFar (old ++ q) q.length [] s t) ∧
  (s.expLen.toNat + 6 ≤ old.length + q.length →
    ReadAndJudged (old ++ q.take (s.expLen.toNat + 6 - old.length)) (s.expLen.toNat + 6 - old.length)
      (q.drop (s.expLen.toNat + 6 - old.length)) s t)

/-- R190: the phase after an operation of code `code` is issued. -/
def phaseAfterOp (s : State) (code : BitVec 4) : Phase :=
  if code = 0xF then .idle
  else
    match s.phase with
    | .tx => .tx
    | .rx => .rx
    | _ =>
      match code.toNat with
      | 1 => .tx
      | 2 => .rx
      | 3 => .tx
      | 4 =>
        match dispatchEntry s.txCmd with
        | some e => if s.txLen = e.reqLen then .tx else .done
        | none => .done
      | 7 => .idle
      | _ => .done

/-- R190: the phase after any other event but a whole frame. -/
def phaseAfterEvent (s : State) (e : Input) : Phase :=
  match e with
  | .txReady =>
    if s.phase = .tx ∧ s.txIdx.toNat = s.txLen.toNat + 5 then if s.opLatch.await then .rx else .done else s.phase
  | .txFail => if s.phase = .tx then .done else s.phase
  | .rxByte =>
    if s.phase = .rx ∧ s.rxQueue ≠ [] ∧ s.rxIdx.toNat + 1 = s.rxNeed.toNat then .done else s.phase
  | .rxTimeout => if s.phase = .rx ∧ s.rxIdx.toNat < s.rxNeed.toNat then .done else s.phase
  | .rst => .idle
  | _ => s.phase

end Sys2Proof.Machine

/-! ### Encodings -/

/-- R90 to R112: no bit of an encoding is dropped. -/
def Obligations.DecodeOfEncodeGivesTheInstruction : Prop :=
  ∀ i : Instr, i.wellFormed = true → decode (encode i) = .ok i

/-- The decoder answers well-formed instructions only, and a frame's bytes are those of its encoding; of an operation word
the operation code is (`TX_CMD` may be any byte where a row does not mask it, R110). -/
def Obligations.DecodedBytesAreTheEncoding : Prop :=
  ∀ (bs : List Byte) (i : Instr), decode bs = .ok i →
    i.wellFormed = true ∧ (bs.length ≠ 2 → encode i = bs) ∧ (bs.length = 2 → (encode i).head? = bs.head?)

/-- R110, R112: what each of the sixteen `OP` codes selects, for every value of `TX_CMD`. -/
def Obligations.EveryOperationWordSelectsItsRow : Prop :=
  ∀ c : Byte,
    decodeOp 0x1 c = .send ∧ decodeOp 0x2 c = .recv ∧ decodeOp 0x3 c = .xfer ∧
    decodeOp 0x4 0x02 = .dispatchKb ∧ decodeOp 0x4 0x05 = .dispatchMs ∧ decodeOp 0x4 0x08 = .dispatchGet ∧
    decodeOp 0x4 0x09 = .dispatchSet ∧
    (c ≠ 0x02 → c ≠ 0x05 → c ≠ 0x08 → c ≠ 0x09 → decodeOp 0x4 c = .dispatchUnlisted) ∧
    decodeOp 0x5 c = .fmtKb ∧ decodeOp 0x6 c = .fmtMsRel ∧ decodeOp 0x7 c = .clear ∧ decodeOp 0xF c = .softReset ∧
    decodeOp 0x0 c = .reserved0 ∧ decodeOp 0x8 c = .reserved8 ∧ decodeOp 0x9 c = .reserved9 ∧
    decodeOp 0xA c = .reservedA ∧ decodeOp 0xB c = .reservedB ∧ decodeOp 0xC c = .reservedC ∧
    decodeOp 0xD c = .reservedD ∧ decodeOp 0xE c = .reservedE

/-- Words written out from the spec's encodings (R97, R100, R110). -/
def Obligations.WordsOfTheSpecDecode : Prop :=
  decode [0x57, 0xAB, 0x00, 0x08, 0x00, 0x0A] = .ok (.getReq 0x00 0x0A) ∧
  decode [0x57, 0xAB, 0x00, 0x89, 0x01, 0xE5, 0x71] = .ok (.setRsp 0x00 0xE5 0x71) ∧
  decode [0x57, 0xAB, 0x00, 0x05, 0x05, 0x01, 0x00, 0x05, 0xFB, 0x00, 0x0D]
    = .ok (.msReq 0x00 0x01 0x00 0x05 0xFB 0x00 0x0D) ∧
  decode [0x04, 0x09] = .ok .dispatchSet ∧ decode [0x0F, 0x33] = .ok .softReset

/-- R47, R110, R107: the fetch, and that a step runs what the decoder gives for the bytes fetched. Around `exec` a step
only consumes the input. -/
def Obligations.StepRunsTheDecodedInstruction : Prop :=
  (∀ (s : State) (idx : Nat) (v : Half) (rest : List Input), s.inputs = .wr 0x00 idx v :: rest →
    fetch s = some [(v.setWidth 4).setWidth 8, s.txCmd]) ∧
  (∀ (s : State) (bytes : List Byte) (rest : List Input), s.inputs = .link bytes :: rest →
    fetch s = if 6 ≤ bytes.length then some bytes else none) ∧
  (∀ (s : State) (bytes : List Byte) (i : Instr), fetch s = some bytes → decode bytes = .ok i → i.wellFormed = true →
    step s = exec i { s with inputs := s.inputs.tail })

/-! ### Pure functions -/

/-- R91: `rsp_cmd`, and the receive check as an equality of all eight bits; the four commands have bit 7 clear, and only 0x88
and 0x89 are awaited by the dispatcher's table. -/
def Obligations.ResponseCommandSetsBitSeven : Prop :=
  (∀ c : Byte, rspCmd c = c ||| 0x80) ∧
  (∀ c : Byte, (rspCmd c).getLsbD 7 = true ∧ ∀ k, k < 7 → (rspCmd c).getLsbD k = c.getLsbD k) ∧
  (∀ c : Byte, c.getLsbD 7 = true → rspCmd c = c) ∧
  rspCmd 0x08 = rspCmd 0x88 ∧
  rspCmd 0x02 = 0x82 ∧ rspCmd 0x05 = 0x85 ∧ rspCmd 0x08 = 0x88 ∧ rspCmd 0x09 = 0x89 ∧
  (∀ (c : Byte) (e : DispatchEntry), dispatchEntry c = some e →
    c.getLsbD 7 = false ∧ (e.await = true → rspCmd c = 0x88 ∨ rspCmd c = 0x89)) ∧
  (∀ s : State, (checksAtVerdict s).cmdOk = true ↔ rxCell s 3 = rspCmd s.expCmd)

/-- R131: the checksum is accumulated from 0 byte by byte, modulo 256, its laws, and `TX_SUM` accumulates it. -/
def Obligations.ChecksumLaws : Prop :=
  sum8 [] = 0 ∧
  (∀ (s : List Byte) (b : Byte), sum8 (s ++ [b]) = sum8 s + b) ∧
  (∀ s t : List Byte, sum8 (s ++ t) = sum8 s + sum8 t) ∧
  (∀ s t : List Byte, s.Perm t → sum8 s = sum8 t) ∧
  (∀ (s t : List Byte) (b : Byte), sum8 (s ++ (b + 1) :: t) = sum8 (s ++ b :: t) + 1) ∧
  (∀ s : List Byte, (sum8 s).toNat = (s.map BitVec.toNat).sum % 256) ∧
  (∀ s : State, (beginTransmit s).txSum = 0) ∧
  (∀ (s : State) (b : Byte), s.txIdx.toNat < s.txLen.toNat + 5 → (sendByte b s).txSum = s.txSum + b)

/-- R130, with its worked example. -/
def Obligations.BuildFrameBytes : Prop :=
  buildFrame 0x12 0x34 [0xDE, 0xAD] = some [0x57, 0xAB, 0x12, 0x34, 0x02, 0xDE, 0xAD, 0xD5] ∧
  ∀ (a c : Byte) (p : List Byte),
    (∀ f, buildFrame a c p = some f → f.length = p.length + 6) ∧
    (p.length ≤ 255 →
      buildFrame a c p
        = some ([0x57, 0xAB, a, c, BitVec.ofNat 8 p.length] ++ p
            ++ [sum8 ([0x57, 0xAB, a, c, BitVec.ofNat 8 p.length] ++ p)])) ∧
    (255 < p.length → buildFrame a c p = none)

/-- R153, R150: the round trip through `split_frame`, without condition, and through `parse_response`, exactly when the
command is the response command of the expectation. -/
def Obligations.BuiltFrameRoundTrip : Prop :=
  ∀ (a c : Byte) (p f : List Byte), buildFrame a c p = some f →
    splitFrame f = some ⟨a, c, BitVec.ofNat 8 p.length, p, sum8 (f.take (p.length + 5))⟩ ∧
    sumOk f = true ∧ hdrOk f = true ∧ lenOk f (BitVec.ofNat 8 p.length) = true ∧
    (∀ ec : Byte, parseResponse f ec (BitVec.ofNat 8 p.length) = some (.ok p) ↔ c = ec ||| 0x80) ∧
    (∀ (ec : Byte) (q : List Byte), c.getLsbD 7 = false →
      parseResponse f ec (BitVec.ofNat 8 p.length) ≠ some (.ok q)) ∧
    (c.getLsbD 7 = true →
      parseResponse f c (BitVec.ofNat 8 p.length) = some (.ok p) ∧
        parseResponse f (c &&& 0x7F) (BitVec.ofNat 8 p.length) = some (.ok p))

/-- R152, with its worked examples; U2: outside its domain `parse_response` is not defined. -/
def Obligations.FirstFailingFieldIsNamed : Prop :=
  parseResponse [0x57, 0xAB, 0x00, 0x89, 0x01, 0x00, 0x8C] 0x09 1 = some (.ok [0x00]) ∧
  parseResponse [0x57, 0xAB, 0x00, 0x89, 0x01, 0x00, 0x8D] 0x09 1 = some (.protocolError .checksum) ∧
  parseResponse [0x57, 0xAB, 0x00, 0x88, 0x01, 0x00, 0x8C] 0x09 1 = some (.protocolError .command) ∧
  (∀ (s : List Byte) (ec el : Byte), s.length ≠ el.toNat + 6 → parseResponse s ec el = none) ∧
  ∀ (s : List Byte) (ec el : Byte), s.length = el.toNat + 6 →
    parseResponse s ec el = some
      (if ¬(s.getD 0 0 = 0x57 ∧ s.getD 1 0 = 0xAB) then .protocolError .header
        else if s.getD 3 0 ≠ ec ||| 0x80 then .protocolError .command
        else if s.getD 4 0 ≠ el then .protocolError .length
        else if s.getD (el.toNat + 5) 0 ≠ sum8 (s.take (el.toNat + 5)) then .protocolError .checksum
        else .ok ((s.drop 5).take el.toNat)) ∧
    ((∃ p, parseResponse s ec el = some (.ok p)) ↔
      hdrOk s = true ∧ cmdOk s ec = true ∧ lenOk s el = true ∧ sumOk s = true)

/-- R160: a change to exactly one byte, a single-bit flip among them, fails the checksum, and which error is reported for a
flipped response depends on where the bit is; changes of several bytes can cancel, and a reordering of the summed bytes is
not detected. -/
def Obligations.WhatTheChecksumDetects : Prop :=
  (∀ (f : List Byte) (k : Nat) (b : Byte), sumOk f = true → k < f.length → b ≠ f.getD k 0 →
    sumOk (f.set k b) = false) ∧
  (∀ (f : List Byte) (k j : Nat), sumOk f = true → k < f.length → j < 8 →
    sumOk (f.set k (f.getD k 0 ^^^ (1#8 <<< j))) = false) ∧
  (∀ (f p : List Byte) (ec el : Byte) (k j : Nat), parseResponse f ec el = some (.ok p) → k < f.length → j < 8 →
    parseResponse (f.set k (f.getD k 0 ^^^ (1#8 <<< j))) ec el = some (.protocolError
      (if k = 0 ∨ k = 1 then .header else if k = 3 then .command else if k = 4 then .length else .checksum))) ∧
  (∀ (p q r : List Byte) (x y d last : Byte), sumOk (p ++ x :: (q ++ y :: (r ++ [last]))) = true →
    sumOk (p ++ (x + d) :: (q ++ (y - d) :: (r ++ [last]))) = true) ∧
  (∀ (p q : List Byte) (last : Byte), p.Perm q → sumOk (p ++ [last]) = sumOk (q ++ [last]))

/-- R200. -/
def Obligations.KeyboardPayloadBytes : Prop :=
  ∀ (m : Byte) (ks : List Byte),
    (kbPayload m ks).length = 8 ∧ (kbPayload m ks)[0]? = some m ∧ (kbPayload m ks)[1]? = some 0x00 ∧
    (∀ j, j < 6 → (kbPayload m ks)[2 + j]? = some (if j < ks.length then ks.getD j 0 else 0x00)) ∧
    kbPayload m ks = kbPayload m (ks.take 6) ∧
    kbPayload 0x00 [] = [0, 0, 0, 0, 0, 0, 0, 0]

/-- R202. -/
def Obligations.DeltaByteSaturatesAndKeepsTheSign : Prop :=
  (∀ v : Int, (deltaByte v).toInt = (if v < -127 then -127 else if 127 < v then 127 else v)) ∧
  (∀ v : Int, deltaByte v ≠ 0x80) ∧
  (∀ v : Int, 0 < v → v ≤ 127 → (deltaByte v).toNat = v.toNat) ∧
  (∀ v : Int, -127 ≤ v → v < 0 → (deltaByte v).toNat = (256 + v).toNat) ∧
  deltaByte 0 = 0x00 ∧ deltaByte 5 = 0x05 ∧ deltaByte (-5) = 0xFB ∧ deltaByte 200 = 0x7F

/-- R64: the baud field is big-endian at offset 3, and setting it changes no other byte. -/
def Obligations.BaudFieldRoundTrip : Prop :=
  ∀ (p : Vector Byte 50) (v : BitVec 32),
    baudGet (baudSet p v) = v ∧
    (∀ k (h : k < 50), k < 3 ∨ 6 < k → (baudSet p v)[k] = p[k]) ∧
    (baudGet p).toNat = p[3].toNat * 2 ^ 24 + p[4].toNat * 2 ^ 16 + p[5].toNat * 2 ^ 8 + p[6].toNat

/-! ### Issuing operations -/

/-- R132, the acceptance of `SEND`: never refused, no transport event, the transmit phase begins. -/
def Obligations.SendBeginsTheTransmitPhase : Prop :=
  ∀ s : State, Ready s →
    exec .send s = .next { acceptedState s with opLatch := ⟨false, false⟩, txIdx := 0, txSum := 0, phase := .tx }

/-- R155, the acceptance of `RECV`: no transport event, `EXP_LEN + 6` bytes are needed. -/
def Obligations.RecvBeginsTheReceivePhase : Prop :=
  ∀ s : State, Ready s →
    ∃ n : Count, n.toNat = s.expLen.toNat + 6 ∧
      exec .recv s
        = .next { acceptedState s with
            opLatch := ⟨false, false⟩, rxNeed := n, rxIdx := 0, rxSum := 0, phase := .rx }

/-- R162, the acceptance of `XFER`: `EXP_CMD <- TX_CMD`, one `RxFlush`, and the transmit phase begins. -/
def Obligations.XferFlushesAndBeginsTheTransmitPhase : Prop :=
  ∀ s : State, Ready s →
    exec .xfer s
      = .next { acceptedState s with
          opLatch := ⟨true, false⟩
          expCmd := s.txCmd
          link := s.link ++ [.rxFlush]
          rxQueue := []
          txIdx := 0
          txSum := 0
          phase := .tx }

/-- R184, R185: the fire-and-forget arms with the table's length begin the transmit phase, with no `RxFlush`. -/
def Obligations.FireAndForgetArmsBeginTheTransmitPhase : Prop :=
  ∀ s : State, Ready s →
    (s.txCmd = 0x02 → s.txLen = 8 →
      exec .dispatchKb s
        = .next { acceptedState s with opLatch := ⟨false, false⟩, txIdx := 0, txSum := 0, phase := .tx }) ∧
    (s.txCmd = 0x05 → s.txLen = 5 →
      exec .dispatchMs s
        = .next { acceptedState s with opLatch := ⟨false, false⟩, txIdx := 0, txSum := 0, phase := .tx })

/-- R186, R187: the awaiting arms with the table's length record what response is awaited, flush stale input and begin the
transmit phase. -/
def Obligations.AwaitingArmsBeginTheirExchange : Prop :=
  ∀ s : State, Ready s →
    (s.txCmd = 0x08 → s.txLen = 0 →
      exec .dispatchGet s
        = .next { acceptedState s with
            opLatch := ⟨true, false⟩
            expCmd := 0x08
            expLen := 50
            link := s.link ++ [.rxFlush]
            rxQueue := []
            txIdx := 0
            txSum := 0
            phase := .tx }) ∧
    (s.txCmd = 0x09 → s.txLen = 50 →
      exec .dispatchSet s
        = .next { acceptedState s with
            opLatch := ⟨true, true⟩
            expCmd := 0x09
            expLen := 1
            link := s.link ++ [.rxFlush]
            rxQueue := []
            txIdx := 0
            txSum := 0
            phase := .tx })

/-- R181, and R182, R111, R240 for a whole step: what a write of 4 to `OP` does, from the dispatch table and the two operands
alone. That a refusal is recorded as `E_BADOP` is the model's choice (log entry 16); that it leaves `OPLATCH` is deduced
(log entry 23). -/
def Obligations.DispatchFollowsItsTable : Prop :=
  (dispatchEntry 0x02 = some ⟨8, false, none, false⟩ ∧
    dispatchEntry 0x05 = some ⟨5, false, none, false⟩ ∧
    dispatchEntry 0x08 = some ⟨0, true, some 50, false⟩ ∧
    dispatchEntry 0x09 = some ⟨50, true, some 1, true⟩ ∧
    ∀ c : Byte, c ≠ 0x02 → c ≠ 0x05 → c ≠ 0x08 → c ≠ 0x09 → dispatchEntry c = none) ∧
  ∀ (s : State) (idx : Nat) (v : Half) (rest : List Input), s.inputs = .wr 0x00 idx v :: rest → v.setWidth 4 = 0x4 →
    Ready s →
    (dispatchEntry s.txCmd = none → step s = .next (badopState { s with inputs := rest })) ∧
    (∀ e, dispatchEntry s.txCmd = some e → s.txLen ≠ e.reqLen → step s = .next (badopState { s with inputs := rest })) ∧
    (∀ e, dispatchEntry s.txCmd = some e → s.txLen = e.reqLen → e.await = false →
      step s
        = .next { acceptedState { s with inputs := rest } with
            opLatch := ⟨false, e.chkStatus⟩, txIdx := 0, txSum := 0, phase := .tx }) ∧
    (∀ e n, dispatchEntry s.txCmd = some e → s.txLen = e.reqLen → e.await = true → e.rspLen = some n →
      step s
        = .next { acceptedState { s with inputs := rest } with
            opLatch := ⟨true, e.chkStatus⟩
            expCmd := s.txCmd
            expLen := n
            link := s.link ++ [.rxFlush]
            rxQueue := []
            txIdx := 0
            txSum := 0
            phase := .tx })

/-- R112, R182, R238: reserved codes and an unlisted command raise `E_BADOP`, with no transport event and no change to any
operand (recording the error: log entry 16; `OPLATCH` left: log entry 23). -/
def Obligations.ReservedAndUnlistedRaiseBadop : Prop :=
  ∀ s : State, Ready s →
    ∀ i ∈ [Instr.dispatchUnlisted, .reserved0, .reserved8, .reserved9, .reservedA, .reservedB, .reservedC, .reservedD,
        .reservedE],
      exec i s = .next (badopState s)

/-- R111 (b): an operation issued in phase `TX` or `RX`, other than `SOFT_RESET`, is ignored. -/
def Obligations.BusyCodecIgnoresOperations : Prop :=
  ∀ s : State, s.phase = .tx ∨ s.phase = .rx → ∀ i ∈ ordinaryOps, exec i s = .next s

/-- R201: `FMT_KB`. The eight cells are `kb_payload` of the host's list, of which the first six were stored. Every other cell
of `TX_BUF` reads as before, and everything but the registers named is unchanged; that `OPLATCH` is among these is deduced
(log entry 23), R201 does not name it. -/
def Obligations.FmtKbWritesTheKeyboardReport : Prop :=
  ∀ s : State, Ready s → Memory.wf cfg.txBufCells s.txBuf = true →
    ∃ t : State, exec .fmtKb s = .next t ∧
      t = { acceptedState s with
        txCmd := 0x02, txLen := 8, txBuf := t.txBuf, result := .ok, phase := .done } ∧
      memRead t.txBuf 0 = some s.kbMod ∧ memRead t.txBuf 1 = some 0x00 ∧
      (∀ j (h : j < 6), memRead t.txBuf (2 + j) = some (if j < s.kbCnt.toNat then s.kbKey[j] else 0x00)) ∧
      (∀ ks : List Byte, ks.length = s.kbCnt.toNat → ks.take 6 = s.kbKey.toList.take (min s.kbCnt.toNat 6) →
        memRange t.txBuf 0 8 = some (kbPayload s.kbMod ks)) ∧
      ∀ a, 8 ≤ a → memRead t.txBuf a = memRead s.txBuf a

/-- R203: `FMT_MS_REL`, with its corner cases. Everything but the registers named is unchanged; that `OPLATCH` is among these
is deduced (log entry 23), R203 does not name it. -/
def Obligations.FmtMsRelWritesTheMouseReport : Prop :=
  deltaByte (0x8000 : Half).toInt = 0x81 ∧ deltaByte (0x7FFF : Half).toInt = 0x7F ∧
  deltaByte (0xFF80 : Half).toInt = 0x81 ∧ deltaByte (0x0080 : Half).toInt = 0x7F ∧
  ∀ s : State, Ready s → Memory.wf cfg.txBufCells s.txBuf = true →
    ∃ t : State, exec .fmtMsRel s = .next t ∧
      t = { acceptedState s with
        txCmd := 0x05, txLen := 5, txBuf := t.txBuf, result := .ok, phase := .done } ∧
      memRead t.txBuf 0 = some 0x01 ∧ memRead t.txBuf 1 = some s.msBtn ∧
      memRead t.txBuf 2 = some (deltaByte s.msDx.toInt) ∧ memRead t.txBuf 3 = some (deltaByte s.msDy.toInt) ∧
      memRead t.txBuf 4 = some s.msWheel ∧
      memRange t.txBuf 0 5 = some (msPayload s.msDx.toInt s.msDy.toInt s.msBtn s.msWheel) ∧
      ∀ a, 5 ≤ a → memRead t.txBuf a = memRead s.txBuf a

/-- R220: `CLEAR`, accepted in `IDLE` and `DONE` only; in a sound `IDLE` state it changes nothing. -/
def Obligations.ClearAcknowledgesTheResult : Prop :=
  (∀ s : State, Ready s →
    exec .clear s
      = .next { s with
          result := .none, errCode := .none, errStatus := 0, checks := ⟨false, false, false, false⟩, phase := .idle }) ∧
  (∀ s : State, s.phase = .tx ∨ s.phase = .rx → exec .clear s = .next s) ∧
  (∀ s : State, Inv s → s.phase = .idle → exec .clear s = .next s)

/-- R221, R260, R261: `SOFT_RESET`, in every phase: every register at its reset value, no `TX_BUF` or `RX_BUF` cell with a
defined content, no transport event, the environment untouched; and hardware reset has the same effect. That the count of
bytes taken and the value last read stay is deduced from R261, that the inputs to come stay is the model's choice (log
entry 20). -/
def Obligations.ResetPutsEveryRegisterBack : Prop :=
  (∀ (s : State) (rest : List Input), s.inputs = .rst :: rest → step s = exec .softReset { s with inputs := rest }) ∧
  ∀ s : State, ∃ t : State, exec .softReset s = .next t ∧
    t = {
      txAddr := 0x00
      txCmd := 0x00
      txLen := 0x00
      txBuf := t.txBuf
      expCmd := 0x00
      expLen := 0x00
      kbMod := 0x00
      kbCnt := 0x00
      kbKey := #v[0x00, 0x00, 0x00, 0x00, 0x00, 0x00]
      msDx := 0x0000
      msDy := 0x0000
      msBtn := 0x00
      msWheel := 0x00
      phase := .idle
      txIdx := 0
      rxIdx := 0
      rxNeed := 0
      txSum := 0x00
      rxSum := 0x00
      opLatch := ⟨false, false⟩
      rxBuf := t.rxBuf
      result := .none
      checks := ⟨false, false, false, false⟩
      errCode := .none
      errStatus := 0x00
      errSeen := 0
      rxQueue := s.rxQueue
      devBlock := s.devBlock
      devBaud := s.devBaud
      link := s.link
      rxTaken := s.rxTaken
      hostData := s.hostData
      inputs := s.inputs
      freeCtr := t.freeCtr } ∧
    ∀ a, memRead t.txBuf a = none ∧ memRead t.rxBuf a = none

/-- R260: the reset values of the codec's registers. -/
def Obligations.ResetValuesOfTheRegisters : Prop :=
  State.reset.phase = .idle ∧ State.reset.result = .none ∧ State.reset.checks = ⟨false, false, false, false⟩ ∧
  State.reset.status = 0x00 ∧ State.reset.errCode = .none ∧ State.reset.errStatus = 0x00 ∧ State.reset.errSeen = 0 ∧
  State.reset.txAddr = 0x00 ∧ State.reset.txCmd = 0x00 ∧ State.reset.txLen = 0x00 ∧ State.reset.expCmd = 0x00 ∧
  State.reset.expLen = 0x00 ∧ State.reset.kbMod = 0x00 ∧ State.reset.kbCnt = 0x00 ∧
  (∀ j (h : j < 6), State.reset.kbKey[j] = 0x00) ∧ State.reset.msDx = 0x0000 ∧ State.reset.msDy = 0x0000 ∧
  State.reset.msBtn = 0x00 ∧ State.reset.msWheel = 0x00 ∧ State.reset.txIdx = 0 ∧ State.reset.rxIdx = 0 ∧
  State.reset.rxNeed = 0 ∧ State.reset.txSum = 0x00 ∧ State.reset.rxSum = 0x00 ∧ State.reset.opLatch = ⟨false, false⟩ ∧
  ∀ a, memRead State.reset.txBuf a = none ∧ memRead State.reset.rxBuf a = none

/-! ### Frames on the link -/

/-- R95 to R97, R99, R90, R133, R134: a request frame that the codec stands at the start of is handed over in full, the
flush follows, and the phase changes. -/
def Obligations.RequestFrameIsHandedOver : Prop :=
  ∀ (i : Instr) (s : State), isRequestFrame i = true → s.phase = .tx → s.txIdx = 0 → s.txSum = 0 →
    operandFrame s = some (encode i) → exec i s = .next (handedOver (encode i) s)

/-- A request frame that the codec is not sending changes nothing. The model's choice, log entry 4. -/
def Obligations.RequestFrameNotSentChangesNothing : Prop :=
  ∀ (i : Instr) (s : State), isRequestFrame i = true →
    (s.phase ≠ .tx ∨ s.txIdx ≠ 0 ∨ s.txSum ≠ 0 ∨ (encode i).take 5 ≠ [0x57, 0xAB, s.txAddr, s.txCmd, s.txLen] ∨
      ∃ f, operandFrame s = some f ∧ f ≠ encode i) →
    exec i s = .next s

/-- R71, R98, R100: outside phase `RX` a frame from the device waits at the back of the input buffer. -/
def Obligations.DeviceFrameWaitsOutsideRx : Prop :=
  ∀ (i : Instr) (s : State), isDeviceFrame i = true → s.phase ≠ .rx →
    exec i s = .next { s with rxQueue := s.rxQueue ++ encode i }

/-- R98, R100, R156, R158, R159, R240: at any point of a receive phase, a frame from the device with which, behind what the
input buffer holds, exactly the bytes missing are there: they are taken in full and judged. -/
def Obligations.DeviceFrameIsReadAndJudged : Prop :=
  ∀ (i : Instr) (s : State) (old : List Byte), isDeviceFrame i = true → Receiving old s →
    old.length + s.rxQueue.length + (encode i).length = s.expLen.toNat + 6 →
    ∃ t : State, exec i s = .next t ∧
      ReadAndJudged (old ++ (s.rxQueue ++ encode i)) (s.rxQueue.length + (encode i).length) [] s t

/-- R71, R156, R158, R233, R272: at any point of a receive phase, a frame from the device with which fewer bytes are there
than are missing: all are taken and more are awaited; or more: as many as are missing are taken, the oldest first, and
judged, and the tail stays in the input buffer. -/
def Obligations.DeviceFrameOfAnotherLength : Prop :=
  ∀ (i : Instr) (s : State) (old : List Byte), isDeviceFrame i = true → Receiving old s →
    old.length + s.rxQueue.length + (encode i).length ≠ s.expLen.toNat + 6 →
    ∃ t : State, exec i s = .next t ∧ ReadInOneGo old (s.rxQueue ++ encode i) s t

/-- R186, R98: the response to `GET_PARA_CFG` with a right checksum ends the exchange with `OK`, and its 50 bytes are the
payload delivered. -/
def Obligations.GetResponseDeliversTheBlock : Prop :=
  ∀ (s : State) (addr : Byte) (block : List Byte) (chk : Byte), AwaitsResponse s → s.expCmd = 0x08 → s.expLen = 50 →
    s.opLatch.chkStatus = false → block.length = 50 →
    chk = sum8 ([0x57, 0xAB, addr, 0x88, 0x32] ++ block) →
    ∃ t : State, exec (.getRsp addr block chk) s = .next t ∧
      t = { readState (encode (.getRsp addr block chk)) s t with
        checks := ⟨true, true, true, true⟩, result := .ok, errCode := s.errCode, errStatus := s.errStatus,
        errSeen := s.errSeen } ∧
      rspPayload t = some block ∧ rspAddr t = some addr

/-- R187, R236, R100: the response to `SET_PARA_CFG` with a right checksum ends the exchange with `OK` when its status byte
is 0x00, and with `E_REJECTED` and the status byte otherwise. -/
def Obligations.SetResponseStatusIsTested : Prop :=
  ∀ (s : State) (addr status chk : Byte), AwaitsResponse s → s.expCmd = 0x09 → s.expLen = 1 →
    s.opLatch.chkStatus = true → chk = sum8 [0x57, 0xAB, addr, 0x89, 0x01, status] →
    ∃ t : State, exec (.setRsp addr status chk) s = .next t ∧
      (status = 0x00 →
        t = { readState (encode (.setRsp addr status chk)) s t with
          checks := ⟨true, true, true, true⟩, result := .ok, errCode := s.errCode, errStatus := s.errStatus,
          errSeen := s.errSeen }) ∧
      (status ≠ 0x00 →
        t = { readState (encode (.setRsp addr status chk)) s t with
          checks := ⟨true, true, true, true⟩, result := .err, errCode := .rejected, errStatus := status,
          errSeen := s.errSeen ||| 0x040 })

/-! ### The engines -/

/-- R240: `raise E(info)` for every cause, and nothing else changes. -/
def Obligations.RaiseRecordsTheCause : Prop :=
  ∀ (e : ErrCode) (info : Byte) (s : State), e ≠ .none →
    ∃ seen : BitVec 9,
      raise e info s = { s with
        result := .err
        errCode := e
        errStatus := if e.code = 6 then info else 0x00
        errSeen := seen
        phase := .done } ∧
      ∀ k, k < 9 → seen.getLsbD k = if k = e.code.toNat then true else s.errSeen.getLsbD k

/-- R133, R134: the byte of each frame position, and what the transport's acceptance of it does. -/
def Obligations.TransportReadinessSendsTheNextByte : Prop :=
  ∀ (s : State) (rest : List Input) (b : Byte), s.inputs = .txReady :: rest → s.phase = .tx →
    (s.txIdx = 0 → b = 0x57) → (s.txIdx = 1 → b = 0xAB) → (s.txIdx = 2 → b = s.txAddr) → (s.txIdx = 3 → b = s.txCmd) →
    (s.txIdx = 4 → b = s.txLen) →
    (5 ≤ s.txIdx.toNat → s.txIdx.toNat ≤ s.txLen.toNat + 4 → memRead s.txBuf (s.txIdx.toNat - 5) = some b) →
    (s.txIdx.toNat = s.txLen.toNat + 5 → b = s.txSum) →
    (s.txIdx.toNat < s.txLen.toNat + 5 →
      step s = .next { s with
        inputs := rest, link := s.link ++ [.txByte b], txSum := s.txSum + b, txIdx := s.txIdx + 1 }) ∧
    (s.txIdx.toNat = s.txLen.toNat + 5 → s.opLatch.await = false →
      step s = .next { s with
        inputs := rest, link := s.link ++ [.txByte b, .txFlush], txIdx := s.txIdx + 1, result := .ok, phase := .done }) ∧
    (s.txIdx.toNat = s.txLen.toNat + 5 → s.opLatch.await = true →
      step s = .next { s with
        inputs := rest, link := s.link ++ [.txByte b, .txFlush], txIdx := s.txIdx + 1,
        rxNeed := s.expLen.setWidth 9 + 6, rxIdx := 0, rxSum := 0, phase := .rx })

/-- R82: a transmit that would read a `TX_BUF` cell nothing has written gives the run no meaning. -/
def Obligations.UnwrittenPayloadCellIsRefused : Prop :=
  ∀ (s : State) (rest : List Input), s.inputs = .txReady :: rest → s.phase = .tx → 5 ≤ s.txIdx.toNat →
    s.txIdx.toNat ≤ s.txLen.toNat + 4 → memRead s.txBuf (s.txIdx.toNat - 5) = none →
    step s = .refused .unwrittenTxCell

/-- R135, R237, R240. -/
def Obligations.WriteFailureEndsWithIoError : Prop :=
  ∀ (s : State) (rest : List Input), s.inputs = .txFail :: rest →
    (s.phase = .tx →
      step s = .next { s with
        inputs := rest, result := .err, errCode := .io, errStatus := 0, errSeen := s.errSeen ||| 0x080, phase := .done }) ∧
    (s.phase ≠ .tx → step s = .next { s with inputs := rest })

/-- R156: a byte before the last is stored in cell `RX_IDX`, added to `RX_SUM`, and nothing else of the buffer changes. -/
def Obligations.ReceivedByteIsStoredAndSummed : Prop :=
  ∀ (s : State) (rest : List Input) (b : Byte) (q : List Byte), s.inputs = .rxByte :: rest → s.phase = .rx →
    s.rxQueue = b :: q → s.rxIdx.toNat + 1 < s.rxNeed.toNat → Memory.wf cfg.rxBufCells s.rxBuf = true →
    s.rxNeed.toNat ≤ 261 →
    ∃ t : State, step s = .next t ∧
      t = { s with
        inputs := rest, rxQueue := q, rxTaken := s.rxTaken + 1, rxBuf := t.rxBuf, rxSum := s.rxSum + b,
        rxIdx := s.rxIdx + 1 } ∧
      ∀ a, memRead t.rxBuf a = if a = s.rxIdx.toNat then some b else memRead s.rxBuf a

/-- R157, R235, R240. -/
def Obligations.TimeoutEndsTheReceivePhase : Prop :=
  ∀ (s : State) (rest : List Input), s.inputs = .rxTimeout :: rest →
    (s.phase = .rx → s.rxIdx.toNat < s.rxNeed.toNat →
      step s = .next { s with
        inputs := rest, result := .err, errCode := .timeout, errStatus := 0, errSeen := s.errSeen ||| 0x020,
        phase := .done }) ∧
    (s.phase ≠ .rx ∨ s.rxNeed.toNat ≤ s.rxIdx.toNat → step s = .next { s with inputs := rest })

/-- R190, R71, R246, R52, R274: an event outside the phase that heeds it changes nothing, arriving bytes wait, and the
device's own events change the device alone: what it stores, and at a power cycle the line speed it uses (log entry 19). -/
def Obligations.EventsOutsideTheirPhaseChangeNothing : Prop :=
  ∀ (s : State) (rest : List Input),
    (s.inputs = .txReady :: rest → s.phase ≠ .tx → step s = .next { s with inputs := rest }) ∧
    (s.inputs = .rxByte :: rest → s.phase ≠ .rx ∨ s.rxQueue = [] ∨ s.rxNeed.toNat ≤ s.rxIdx.toNat →
      step s = .next { s with inputs := rest }) ∧
    (∀ bytes, s.inputs = .arrive bytes :: rest →
      step s = .next { s with inputs := rest, rxQueue := s.rxQueue ++ bytes }) ∧
    (∀ block, s.inputs = .devStore block :: rest → step s = .next { s with inputs := rest, devBlock := block }) ∧
    (s.inputs = .devPowerCycle :: rest →
      step s = .next { s with
        inputs := rest, devBaud := s.devBlock[3] ++ s.devBlock[4] ++ s.devBlock[5] ++ s.devBlock[6] })

/-- R45, R46, R9, R27: a host write in phase `IDLE` or `DONE` sets the operand it names, reduced to its width, and nothing
else; a write of a read-only register, of an unmapped number or outside a memory is dropped; so is every write in phase `TX`
or `RX`, but for the issue of an operation. -/
def Obligations.HostWriteSetsItsOperandOrIsDropped : Prop :=
  (∀ (s : State) (rest : List Input) (no : Byte) (idx : Nat) (v : Half), s.inputs = .wr no idx v :: rest → no ≠ 0x00 →
    s.phase = .tx ∨ s.phase = .rx → step s = .next { s with inputs := rest }) ∧
  ∀ (s : State) (rest : List Input) (no : Byte) (idx : Nat) (v : Half), s.inputs = .wr no idx v :: rest → Ready s →
    (no = 0x05 → step s = .next { s with inputs := rest, txAddr := v.setWidth 8 }) ∧
    (no = 0x06 → step s = .next { s with inputs := rest, txCmd := v.setWidth 8 }) ∧
    (no = 0x07 → step s = .next { s with inputs := rest, txLen := v.setWidth 8 }) ∧
    (no = 0x08 → step s = .next { s with inputs := rest, expCmd := v.setWidth 8 }) ∧
    (no = 0x09 → step s = .next { s with inputs := rest, expLen := v.setWidth 8 }) ∧
    (no = 0x0A → step s = .next { s with inputs := rest, kbMod := v.setWidth 8 }) ∧
    (no = 0x0B → step s = .next { s with inputs := rest, kbCnt := v.setWidth 8 }) ∧
    (no = 0x0C → step s = .next { s with inputs := rest, msDx := v }) ∧
    (no = 0x0D → step s = .next { s with inputs := rest, msDy := v }) ∧
    (no = 0x0E → step s = .next { s with inputs := rest, msBtn := v.setWidth 8 }) ∧
    (no = 0x0F → step s = .next { s with inputs := rest, msWheel := v.setWidth 8 }) ∧
    (no = 0x20 → ∀ h : idx < 6, step s = .next { s with inputs := rest, kbKey := s.kbKey.set idx (v.setWidth 8) }) ∧
    (no = 0x20 → 6 ≤ idx → step s = .next { s with inputs := rest }) ∧
    (no = 0x40 → Memory.wf cfg.txBufCells s.txBuf = true →
      ∃ t : State, step s = .next t ∧ t = { s with inputs := rest, txBuf := t.txBuf } ∧
        ∀ a, memRead t.txBuf a = if a = idx ∧ idx < 255 then some (v.setWidth 8) else memRead s.txBuf a) ∧
    ((0x00 < no ∧ no < 0x05 ∨ 0x0F < no ∧ no ≠ 0x20 ∧ no ≠ 0x40) → step s = .next { s with inputs := rest })

/-- R45, R46: a host read returns the register or cell and changes nothing of the codec, in any phase; where the spec says
"any value" (U5, U6) it completes all the same. That the bits above a register's width are 0 is the model's choice (log
entry 22). -/
def Obligations.HostReadReturnsTheRegister : Prop :=
  ∀ (s : State) (rest : List Input) (no : Byte) (idx : Nat), s.inputs = .rd no idx :: rest →
    ∃ t : State, step s = .next t ∧
      t = { s with inputs := rest, hostData := t.hostData, freeCtr := t.freeCtr } ∧
      (no = 0x01 → t.hostData = s.status.setWidth 16) ∧ (no = 0x02 → t.hostData = s.errCode.code.setWidth 16) ∧
      (no = 0x03 → t.hostData = s.errStatus.setWidth 16) ∧ (no = 0x04 → t.hostData = s.errSeen.setWidth 16) ∧
      (no = 0x05 → t.hostData = s.txAddr.setWidth 16) ∧ (no = 0x06 → t.hostData = s.txCmd.setWidth 16) ∧
      (no = 0x07 → t.hostData = s.txLen.setWidth 16) ∧ (no = 0x08 → t.hostData = s.expCmd.setWidth 16) ∧
      (no = 0x09 → t.hostData = s.expLen.setWidth 16) ∧ (no = 0x0A → t.hostData = s.kbMod.setWidth 16) ∧
      (no = 0x0B → t.hostData = s.kbCnt.setWidth 16) ∧ (no = 0x0C → t.hostData = s.msDx) ∧
      (no = 0x0D → t.hostData = s.msDy) ∧ (no = 0x0E → t.hostData = s.msBtn.setWidth 16) ∧
      (no = 0x0F → t.hostData = s.msWheel.setWidth 16) ∧ (no = 0x10 → t.hostData = s.txIdx.setWidth 16) ∧
      (no = 0x11 → t.hostData = s.rxIdx.setWidth 16) ∧ (no = 0x12 → t.hostData = s.rxNeed.setWidth 16) ∧
      (no = 0x13 → t.hostData = s.txSum.setWidth 16) ∧ (no = 0x14 → t.hostData = s.rxSum.setWidth 16) ∧
      (no = 0x15 → t.hostData.toNat = s.opLatch.await.toNat + 2 * s.opLatch.chkStatus.toNat) ∧
      (no = 0x20 → ∀ h : idx < 6, t.hostData = s.kbKey[idx].setWidth 16) ∧
      (no = 0x40 → ∀ b, idx < 255 → memRead s.txBuf idx = some b → t.hostData = b.setWidth 16) ∧
      (no = 0x80 → ∀ b, idx < 261 → memRead s.rxBuf idx = some b → t.hostData = b.setWidth 16)

/-- R45: `STATUS` is a view: bits 7:4 `CHECKS`, bits 3:2 `RESULT`, bits 1:0 `PHASE`. That a host read gives it with the bits
above its width 0 is the model's choice (log entry 22). -/
def Obligations.StatusPacksChecksResultAndPhase : Prop :=
  ∀ s : State,
    s.status.toNat = s.checks.bits.toNat * 16 + s.result.code.toNat * 4 + s.phase.code.toNat ∧
    s.checks.bits.toNat
      = s.checks.hdrOk.toNat + 2 * s.checks.cmdOk.toNat + 4 * s.checks.lenOk.toNat + 8 * s.checks.sumOk.toNat ∧
    readReg s 0x01 0 = some (s.status.setWidth 16)

/-! ### Whole operations -/

/-- R136: from the acceptance of a `SEND` whose payload is written, the transport accepting `TX_LEN + 6` bytes, the events
are exactly the bytes of `build_frame` and one `TxFlush`, and the operands are unchanged. -/
def Obligations.CompletedSendEmitsTheBuiltFrame : Prop :=
  ∀ (s : State) (idx : Nat) (v : Half) (rest : List Input) (p f : List Byte), Ready s → v.setWidth 4 = 0x1 →
    s.inputs = .wr 0x00 idx v :: (List.replicate (s.txLen.toNat + 6) .txReady ++ rest) →
    memRange s.txBuf 0 s.txLen.toNat = some p → buildFrame s.txAddr s.txCmd p = some f →
    Host.Core.run core (s.txLen.toNat + 7) s
      = .next { acceptedState s with
          inputs := rest
          opLatch := ⟨false, false⟩
          link := s.link ++ (f.map .txByte ++ [.txFlush])
          txIdx := BitVec.ofNat 9 (s.txLen.toNat + 6)
          txSum := f.getD (s.txLen.toNat + 5) 0
          result := .ok
          phase := .done }

/-- R163, R76: a whole `XFER` whose response comes in full: one `RxFlush`, the request, one `TxFlush`, then exactly
`EXP_LEN + 6` bytes are taken, and the checks are those of R151 on them, against the request's command; `TX_ADDR`, `TX_CMD`,
`TX_LEN`, `TX_BUF` and `EXP_LEN` are unchanged. -/
def Obligations.CompletedXferOrdersItsTraffic : Prop :=
  ∀ (s : State) (idx : Nat) (v : Half) (rest : List Input) (p f r : List Byte), Ready s → v.setWidth 4 = 0x3 →
    s.inputs = .wr 0x00 idx v :: (List.replicate (s.txLen.toNat + 6) .txReady ++
      (.arrive r :: (List.replicate (s.expLen.toNat + 6) .rxByte ++ rest))) →
    memRange s.txBuf 0 s.txLen.toNat = some p → buildFrame s.txAddr s.txCmd p = some f →
    r.length = s.expLen.toNat + 6 → Memory.wf cfg.rxBufCells s.rxBuf = true →
    ∃ t : State, Host.Core.run core (s.txLen.toNat + 6 + (s.expLen.toNat + 6) + 2) s = .next t ∧
      t.link = s.link ++ (.rxFlush :: (f.map .txByte ++ [.txFlush])) ∧
      t.phase = .done ∧ t.rxQueue = [] ∧ t.rxTaken = s.rxTaken + (s.expLen.toNat + 6) ∧ t.inputs = rest ∧
      t.expCmd = s.txCmd ∧ t.expLen = s.expLen ∧ t.txAddr = s.txAddr ∧ t.txCmd = s.txCmd ∧ t.txLen = s.txLen ∧
      t.txBuf = s.txBuf ∧
      memRange t.rxBuf 0 r.length = some r ∧ t.checks = checksOf r s.txCmd s.expLen ∧
      (t.result = .ok ↔ ∃ q, parseResponse r s.txCmd s.expLen = some (.ok q))

/-- R158, R159: the machine's verdict on a full read, from `CHECKS` and `RX_SUM`, is the outcome of `parse_response` on the
bytes taken, with the status test after it. -/
def Obligations.FullReadVerdictIsParseResponse : Prop :=
  ∀ (s : State) (rest : List Input) (r q : List Byte), s.phase = .rx → s.rxIdx = 0 → s.rxSum = 0 →
    s.rxNeed = s.expLen.setWidth 9 + 6 → s.rxQueue = r ++ q → r.length = s.expLen.toNat + 6 →
    Memory.wf cfg.rxBufCells s.rxBuf = true → s.inputs = List.replicate (s.expLen.toNat + 6) .rxByte ++ rest →
    ∃ t : State, Host.Core.run core (s.expLen.toNat + 6) s = .next t ∧
      t.phase = .done ∧ t.rxQueue = q ∧ t.rxTaken = s.rxTaken + r.length ∧ t.link = s.link ∧
      t.rxIdx = s.rxNeed ∧ t.checks = checksOf r s.expCmd s.expLen ∧
      match parseResponse r s.expCmd s.expLen with
      | some (.protocolError e) =>
        t.result = .err ∧ t.errCode = e ∧ t.errStatus = 0 ∧ t.errSeen = s.errSeen ||| e.seenBit
      | some (.ok p) =>
        if s.opLatch.chkStatus = true ∧ r.getD 5 0 ≠ 0x00 then
          t.result = .err ∧ t.errCode = .rejected ∧ t.errStatus = r.getD 5 0 ∧ t.errSeen = s.errSeen ||| 0x040
        else t.result = .ok ∧ t.errCode = s.errCode ∧ t.errSeen = s.errSeen ∧ rspPayload t = some p
      | none => False

/-- R157, R159, R245: a read that a timeout cuts short is `E_TIMEOUT` whatever its bytes are, and they are kept. -/
def Obligations.ShortReadIsATimeout : Prop :=
  ∀ (s : State) (rest : List Input) (r : List Byte), s.phase = .rx → s.rxIdx = 0 → s.rxSum = 0 →
    s.rxQueue = r → r.length < s.rxNeed.toNat → s.rxNeed.toNat ≤ 261 → Memory.wf cfg.rxBufCells s.rxBuf = true →
    s.inputs = List.replicate r.length .rxByte ++ (.rxTimeout :: rest) →
    ∃ t : State, Host.Core.run core (r.length + 1) s = .next t ∧
      t.phase = .done ∧ t.result = .err ∧ t.errCode = .timeout ∧ t.errStatus = 0 ∧ t.errSeen = s.errSeen ||| 0x020 ∧
      t.checks = s.checks ∧ t.rxIdx.toNat = r.length ∧ memRange t.rxBuf 0 r.length = some r ∧
      t.rxTaken = s.rxTaken + r.length ∧ t.link = s.link

/-- R278: phase `TX` ends once the transport has accepted the bytes that remain. -/
def Obligations.TransmitPhaseEnds : Prop :=
  ∀ (s : State) (rest : List Input), Inv s → s.phase = .tx → PayloadWritten s →
    s.inputs = List.replicate (s.txLen.toNat + 6 - s.txIdx.toNat) .txReady ++ rest →
    ∃ t : State, Host.Core.run core (s.txLen.toNat + 6 - s.txIdx.toNat) s = .next t ∧
      t.phase = (if s.opLatch.await then .rx else .done) ∧ t.inputs = rest

/-! ### Invariants and rules of the whole machine -/

/-- `Inv` holds right after reset. -/
def Obligations.ResetStateIsSound : Prop := Inv State.reset

/-- Every step keeps `Inv` (R31 to R44, R60). -/
def Obligations.EveryStepKeepsTheStateSound : Prop :=
  ∀ s t : State, Inv s → step s = .next t → Inv t

/-- Under `Inv` no step faults, and a step is refused only in a transmit phase whose payload is not written (R82). -/
def Obligations.SoundStatesStepOrLackAPayload : Prop :=
  ∀ s : State, Inv s →
    (∀ f, step s ≠ .fault f) ∧
    (∀ r, step s = .refused r → r = .unwrittenTxCell ∧ s.phase = .tx ∧ ¬PayloadWritten s)

/-- Every instruction answers a next state unless it is a request frame in a transmit phase without a written payload. -/
def Obligations.EveryInstructionAnswersANextState : Prop :=
  ∀ (i : Instr) (s : State), isRequestFrame i = false ∨ s.phase ≠ .tx ∨ PayloadWritten s →
    ∃ t : State, exec i s = .next t

/-- R190: the complete phase-transition table, over every step. -/
def Obligations.PhaseMovesByTheTable : Prop :=
  ∀ (s t : State) (e : Input) (rest : List Input), s.inputs = e :: rest → step s = .next t →
    match e with
    | .wr no _ v => t.phase = if no = 0x00 then phaseAfterOp s (v.setWidth 4) else s.phase
    | .link _ =>
      t.phase = s.phase ∨ (s.phase = .tx ∧ t.phase = if s.opLatch.await then .rx else .done) ∨
        (s.phase = .rx ∧ t.phase = .done)
    | e => t.phase = phaseAfterEvent s e

/-- R44: a recorded cause stays recorded in `ERR_SEEN` through every step but `SOFT_RESET` and hardware reset. -/
def Obligations.RecordedCausesStay : Prop :=
  ∀ (s t : State) (k : Nat), step s = .next t → s.errSeen.getLsbD k = true →
    (∀ rest, s.inputs ≠ .rst :: rest) → (∀ idx v rest, s.inputs = .wr 0x00 idx v :: rest → v.setWidth 4 ≠ 0xF) →
    t.errSeen.getLsbD k = true

/-- R75: the codec takes back, reorders or drops no transport event it has emitted. -/
def Obligations.EmittedEventsStay : Prop :=
  ∀ s t : State, step s = .next t → s.link <+: t.link

/-- R21, R27, R28, R52, R274: no instruction but `SOFT_RESET` writes `TX_ADDR` or an operand of a formatter, and none
changes the device's stored block, its line speed, what the host last read, or the inputs to come. The last two are fields of
the model's form (log entries 22 and 1); that `SOFT_RESET` leaves the value last read is deduced from R261, that it leaves
the inputs to come is the model's choice (log entry 20). -/
def Obligations.HostOperandsAndDeviceAreLeftAlone : Prop :=
  ∀ (i : Instr) (s t : State), exec i s = .next t →
    (i ≠ .softReset → t.txAddr = s.txAddr ∧ t.kbMod = s.kbMod ∧ t.kbCnt = s.kbCnt ∧ t.kbKey = s.kbKey ∧
      t.msDx = s.msDx ∧ t.msDy = s.msDy ∧ t.msBtn = s.msBtn ∧ t.msWheel = s.msWheel) ∧
    t.devBlock = s.devBlock ∧ t.devBaud = s.devBaud ∧ t.hostData = s.hostData ∧ t.inputs = s.inputs

/-- R60, R61, R62. No instruction but `SOFT_RESET` and a frame from the device writes `RX_BUF`, and none but `SOFT_RESET` and
the two formatters writes `TX_BUF`. Over every step, `TX_BUF` changes by a reset or, in phase `IDLE` or `DONE`, by the host's
write of a cell or a formatter only, and `RX_BUF` by a reset or, in phase `RX`, by bytes taken only. -/
def Obligations.BuffersAreWrittenByTheirOwnersOnly : Prop :=
  (∀ (i : Instr) (s t : State), exec i s = .next t →
    (i ≠ .softReset → isDeviceFrame i = false → t.rxBuf = s.rxBuf) ∧
    (i ≠ .softReset → i ≠ .fmtKb → i ≠ .fmtMsRel → t.txBuf = s.txBuf)) ∧
  ∀ (s t : State) (e : Input) (rest : List Input), s.inputs = e :: rest → step s = .next t →
    (t.txBuf ≠ s.txBuf →
      (e = .rst ∨ ∃ idx v, e = .wr 0x00 idx v ∧ v.setWidth 4 = 0xF) ∨
      (Ready s ∧ ∃ idx v, e = .wr 0x40 idx v ∨ (e = .wr 0x00 idx v ∧ (v.setWidth 4 = 0x5 ∨ v.setWidth 4 = 0x6)))) ∧
    (t.rxBuf ≠ s.rxBuf →
      (e = .rst ∨ ∃ idx v, e = .wr 0x00 idx v ∧ v.setWidth 4 = 0xF) ∨
      (s.phase = .rx ∧ (e = .rxByte ∨ ∃ bytes, e = .link bytes)))

/-- R243, R279: between operations the transport's and the device's events raise no error, and a run that is over (or over
and good) stays so, with the same outcome unless hardware is reset (what counts as a host action: log entry 24; that hardware reset leaves the
inputs to come is the model's choice, log entry 20). -/
def Obligations.NoErrorBetweenOperations : Prop :=
  (∀ (s t : State) (e : Input) (rest : List Input), s.inputs = e :: rest → Ready s → step s = .next t →
    (∀ no idx v, e ≠ .wr no idx v) → e ≠ .rst →
    t.errCode = s.errCode ∧ t.errSeen = s.errSeen ∧ t.result = s.result ∧ t.phase = s.phase) ∧
  ∀ s t : State, RunOver s → step s = .next t →
    RunOver t ∧ (RunGood s → RunGood t) ∧ t.link = s.link ∧
      ((∀ rest, s.inputs ≠ .rst :: rest) → outcome t = outcome s)

/-- R71, R72, R156: bytes on the link that are no instruction (fewer than six, or no frame) arrive as they are: outside phase
`RX` they wait in the input buffer, and in phase `RX` they are read in one go behind what stands there (log entries 5, 7). -/
def Obligations.LinkBytesThatAreNoFrameArrive : Prop :=
  ∀ (s : State) (bytes : List Byte) (rest : List Input), s.inputs = .link bytes :: rest →
    (bytes.length < 6 ∨ ∃ e, decode bytes = .error e) →
    (s.phase ≠ .rx → step s = .next { s with inputs := rest, rxQueue := s.rxQueue ++ bytes }) ∧
    ∀ old, Receiving old s →
      ∃ t : State, step s = .next t ∧ ReadInOneGo old (s.rxQueue ++ bytes) { s with inputs := rest } t
end

