-- ==== Sys2Proof/Laws/Checksum.lean ====
section
/-! SUPPORT. The laws of `sum8` (spec/40_frame_transmit.md R131) and of a built frame (R130). -/

namespace Sys2Proof.Machine

theorem foldl_add_eq (s : List Byte) (a : Byte) : s.foldl (· + ·) a = a + sum8 s := by
  induction s generalizing a with
  | nil => simp [sum8]
  | cons b s ih =>
    have h : sum8 (b :: s) = b + sum8 s := by
      show s.foldl (· + ·) (0 + b) = _
      rw [ih, zero_add]
    rw [h, List.foldl_cons, ih, add_assoc]

theorem sum8_nil : sum8 [] = 0 := rfl

theorem sum8_cons (b : Byte) (s : List Byte) : sum8 (b :: s) = b + sum8 s := by
  show s.foldl (· + ·) (0 + b) = _
  rw [foldl_add_eq, zero_add]

/-- The checksum is accumulated byte by byte (R131, R133). -/
theorem sum8_append_one (s : List Byte) (b : Byte) : sum8 (s ++ [b]) = sum8 s + b := by
  simp [sum8]

theorem sum8_append (s t : List Byte) : sum8 (s ++ t) = sum8 s + sum8 t := by
  rw [sum8, List.foldl_append, foldl_add_eq]
  rfl

theorem frameHead_length (a c : Byte) (p : List Byte) : (frameHead a c p).length = p.length + 5 := rfl

/-- `build_frame` on its domain. -/
theorem buildFrame_eq (a c : Byte) (p : List Byte) (h : p.length ≤ 255) :
    buildFrame a c p = some (frameHead a c p ++ [sum8 (frameHead a c p)]) := if_pos h

end Sys2Proof.Machine
end

