-- ==== Sys2Proof/Laws/Decode.lean ====
section
/-! SUPPORT. What the decoder makes of the encodings: a frame's bytes give its kind (spec/30_encoding.md R90, R107), an
operation word its operation (R110). -/

namespace Sys2Proof.Machine

theorem decode_frameBytes (addr cmd : Byte) (data : List Byte) (chk : Byte) (h : data.length ≤ 255) :
    decode (frameBytes addr cmd data chk) = .ok (frameKind addr cmd data chk) := by
  have hl : (BitVec.ofNat 8 data.length).toNat = data.length := by
    simp only [BitVec.toNat_ofNat]
    omega
  show decodeFrame (frameBytes addr cmd data chk) = _
  simp only [frameBytes, decodeFrame, hl]
  rw [if_pos ⟨trivial, trivial⟩, if_pos (by simp)]
  simp [List.getD]

/-- R107: a frame kind is one of the frame rows, never an operation. -/
theorem frameKind_isFrame (addr cmd : Byte) (data : List Byte) (chk : Byte) :
    isRequestFrame (frameKind addr cmd data chk) = true ∨ isDeviceFrame (frameKind addr cmd data chk) = true := by
  have hf : isRequestFrame (.frame addr cmd data chk) = true ∨ isDeviceFrame (.frame addr cmd data chk) = true := by
    simp [isRequestFrame, isDeviceFrame]
  unfold frameKind
  repeat' split
  all_goals first | exact hf | exact .inl rfl | exact .inr rfl

/-- What the bytes of the link decode to is a frame. -/
theorem decode_isFrame (bytes : List Byte) (i : Instr) (hl : 6 ≤ bytes.length) (h : decode bytes = .ok i) :
    isRequestFrame i = true ∨ isDeviceFrame i = true := by
  match bytes, hl with
  | h0 :: h1 :: addr :: cmd :: len :: rest, _ =>
    have h : decodeFrame (h0 :: h1 :: addr :: cmd :: len :: rest) = .ok i := h
    simp only [decodeFrame] at h
    split at h
    · split at h
      · cases h
        exact frameKind_isFrame _ _ _ _
      · cases h
    · cases h

/-- R110: what an operation word decodes to is an operation. -/
theorem decodeOp_isOperation (op : BitVec 4) (c : Byte) : decodeOp op c ∈ ordinaryOps ∨ decodeOp op c = .softReset := by
  unfold decodeOp
  repeat' split
  all_goals first | exact .inr rfl | (left; simp [ordinaryOps])

end Sys2Proof.Machine
end

