-- ==== Sys2Proof/Laws/Memory.lean ====
section
/-! SUPPORT. The laws of the byte memories: a cell reads what was last written, other cells are left alone, and every write
keeps the canonical form (spec/20_memory.md R60 to R62). -/

namespace Sys2Proof.Machine

/-- `MemWrite(i, b)` and then `MemRead(i)` gives `b` and leaves every other cell alone. -/
theorem memRead_memPut (m : Mem) (lo size i j : Nat) (b : Byte) (h : memWfFrom size lo m = true) :
    memRead (memPut m i b) j = if i = j then some b else memRead m j := by
  induction m generalizing lo with
  | nil => simp [memPut, memRead]
  | cons c m ih =>
    obtain ⟨a, c⟩ := c
    simp only [memWfFrom, Bool.and_eq_true, decide_eq_true_eq] at h
    have below : ∀ (m : Mem) (lo : Nat), memWfFrom size lo m = true → ∀ k, k < lo → memRead m k = none := by
      intro m
      induction m with
      | nil => intros; rfl
      | cons d m ih2 =>
        intro lo h k hk
        obtain ⟨x, y⟩ := d
        simp only [memWfFrom, Bool.and_eq_true, decide_eq_true_eq] at h
        simp only [memRead]
        rw [if_neg (by omega)]
        exact ih2 _ h.2 k (by omega)
    simp only [memPut]
    split
    · simp only [memRead]
    · split
      · subst_vars
        simp only [memRead]
        split <;> rfl
      · simp only [memRead, ih _ h.2]
        split <;> split <;> first | rfl | omega

theorem memWfFrom_memPut (m : Mem) (lo size i : Nat) (b : Byte) (h : memWfFrom size lo m = true) (hi : i < size)
    (hlo : lo ≤ i) : memWfFrom size lo (memPut m i b) = true := by
  induction m generalizing lo with
  | nil => simp [memPut, memWfFrom, hi, hlo]
  | cons c m ih =>
    obtain ⟨a, c⟩ := c
    simp only [memWfFrom, Bool.and_eq_true, decide_eq_true_eq] at h
    simp only [memPut]
    split
    · simp only [memWfFrom, Bool.and_eq_true, decide_eq_true_eq]
      exact ⟨⟨hlo, hi⟩, ⟨by omega, h.1.2⟩, h.2⟩
    · split
      · subst_vars
        simp only [memWfFrom, Bool.and_eq_true, decide_eq_true_eq]
        exact h
      · simp only [memWfFrom, Bool.and_eq_true, decide_eq_true_eq]
        exact ⟨h.1, ih _ h.2 (by omega)⟩

theorem memRead_memWrite (size : Nat) (m : Mem) (i j : Nat) (b : Byte) (h : Memory.wf size m = true) :
    memRead (memWrite size m i b) j = if i < size ∧ i = j then some b else memRead m j := by
  unfold memWrite
  split
  · rw [memRead_memPut m 0 size i j b h]
    simp [*]
  · simp [*]

/-- Every write keeps the canonical form. -/
theorem memWrite_wf (size : Nat) (m : Mem) (i : Nat) (b : Byte) (h : Memory.wf size m = true) :
    Memory.wf size (memWrite size m i b) = true := by
  unfold memWrite
  split
  · exact memWfFrom_memPut m 0 size i b h ‹_› (Nat.zero_le _)
  · exact h

theorem memWriteList_wf (size : Nat) (bs : List Byte) (m : Mem) (i : Nat) (h : Memory.wf size m = true) :
    Memory.wf size (memWriteList size m i bs) = true := by
  induction bs generalizing m i with
  | nil => exact h
  | cons b bs ih => exact ih _ _ (memWrite_wf size m i b h)

/-- What a run of writes leaves in each cell. -/
theorem memRead_memWriteList (size : Nat) (bs : List Byte) (m : Mem) (i j : Nat) (h : Memory.wf size m = true)
    (hfit : i + bs.length ≤ size) :
    memRead (memWriteList size m i bs) j = if i ≤ j ∧ j < i + bs.length then bs[j - i]? else memRead m j := by
  induction bs generalizing m i with
  | nil =>
    simp only [memWriteList, List.length_nil]
    rw [if_neg (by omega)]
  | cons b bs ih =>
    simp only [List.length_cons] at hfit ⊢
    simp only [memWriteList]
    rw [ih _ _ (memWrite_wf size m i b h) (by omega), memRead_memWrite size m i j b h]
    by_cases hj : i = j
    · subst hj
      rw [if_neg (by omega), if_pos ⟨by omega, rfl⟩, if_pos ⟨Nat.le_refl _, by omega⟩]
      simp
    · by_cases hr : i + 1 ≤ j ∧ j < i + 1 + bs.length
      · rw [if_pos hr, if_pos (by omega)]
        have : j - i = (j - (i + 1)) + 1 := by omega
        rw [this, List.getElem?_cons_succ]
      · rw [if_neg hr, if_neg (by omega), if_neg (by omega)]

theorem memRange_length (m : Mem) (i n : Nat) (bs : List Byte) (h : memRange m i n = some bs) : bs.length = n := by
  induction n generalizing i bs with
  | zero => simp only [memRange, Option.some.injEq] at h; subst h; rfl
  | succ n ih =>
    simp only [memRange] at h
    split at h
    · simp only [Option.some.injEq] at h
      subst h
      simp [ih _ _ ‹_›]
    · exact absurd h (by simp)

theorem memRange_get (m : Mem) (i n : Nat) (bs : List Byte) (h : memRange m i n = some bs) (k : Nat) (hk : k < n) :
    memRead m (i + k) = bs[k]? := by
  induction n generalizing i bs k with
  | zero => omega
  | succ n ih =>
    simp only [memRange] at h
    split at h
    · rename_i b bs' hb hbs
      simp only [Option.some.injEq] at h
      subst h
      cases k with
      | zero => simpa using hb
      | succ k =>
        rw [List.getElem?_cons_succ, ← ih _ _ hbs k (by omega)]
        congr 1
        omega
    · exact absurd h (by simp)

/-- A range is what its cells are. -/
theorem memRange_eq_of_reads (m : Mem) (bs : List Byte) (i : Nat)
    (h : ∀ k, k < bs.length → memRead m (i + k) = bs[k]?) : memRange m i bs.length = some bs := by
  induction bs generalizing i with
  | nil => rfl
  | cons b bs ih =>
    have h0 := h 0 (by simp)
    have hs := ih (i + 1) fun k hk => by
      have := h (k + 1) (by simpa using hk)
      rw [List.getElem?_cons_succ] at this
      rw [← this]
      congr 1
      omega
    simp only [List.length_cons, memRange]
    rw [hs]
    simp only [Nat.add_zero, List.getElem?_cons_zero] at h0
    rw [h0]

/-- Writing on behind a range lengthens it. -/
theorem memRange_memWriteList (size : Nat) (m : Mem) (n : Nat) (old bs : List Byte) (hw : Memory.wf size m = true)
    (hr : memRange m 0 n = some old) (hfit : n + bs.length ≤ size) :
    memRange (memWriteList size m n bs) 0 (n + bs.length) = some (old ++ bs) := by
  have hl := memRange_length m 0 n old hr
  have hlen : n + bs.length = (old ++ bs).length := by rw [List.length_append, hl]
  rw [hlen]
  apply memRange_eq_of_reads
  intro k hk
  rw [Nat.zero_add, memRead_memWriteList size bs m n k hw hfit]
  by_cases h : n ≤ k
  · rw [if_pos ⟨h, by omega⟩, List.getElem?_append_right (by omega), hl]
  · rw [if_neg (by omega), List.getElem?_append_left (by omega), ← memRange_get m 0 n old hr k (by omega), Nat.zero_add]

end Sys2Proof.Machine
end

