-- ==== Sys2Proof/Laws/State.lean ====
section
/-! SUPPORT. The fields of a state after each shared update, one lemma a field. -/

namespace Sys2Proof.Machine

@[simp] theorem clearResults_txAddr (s : State) : (clearResults s).txAddr = s.txAddr := rfl
@[simp] theorem clearResults_txCmd (s : State) : (clearResults s).txCmd = s.txCmd := rfl
@[simp] theorem clearResults_txLen (s : State) : (clearResults s).txLen = s.txLen := rfl
@[simp] theorem clearResults_txBuf (s : State) : (clearResults s).txBuf = s.txBuf := rfl
@[simp] theorem clearResults_expCmd (s : State) : (clearResults s).expCmd = s.expCmd := rfl
@[simp] theorem clearResults_expLen (s : State) : (clearResults s).expLen = s.expLen := rfl
@[simp] theorem clearResults_kbMod (s : State) : (clearResults s).kbMod = s.kbMod := rfl
@[simp] theorem clearResults_kbCnt (s : State) : (clearResults s).kbCnt = s.kbCnt := rfl
@[simp] theorem clearResults_kbKey (s : State) : (clearResults s).kbKey = s.kbKey := rfl
@[simp] theorem clearResults_msDx (s : State) : (clearResults s).msDx = s.msDx := rfl
@[simp] theorem clearResults_msDy (s : State) : (clearResults s).msDy = s.msDy := rfl
@[simp] theorem clearResults_msBtn (s : State) : (clearResults s).msBtn = s.msBtn := rfl
@[simp] theorem clearResults_msWheel (s : State) : (clearResults s).msWheel = s.msWheel := rfl
@[simp] theorem clearResults_phase (s : State) : (clearResults s).phase = s.phase := rfl
@[simp] theorem clearResults_txIdx (s : State) : (clearResults s).txIdx = s.txIdx := rfl
@[simp] theorem clearResults_rxIdx (s : State) : (clearResults s).rxIdx = s.rxIdx := rfl
@[simp] theorem clearResults_rxNeed (s : State) : (clearResults s).rxNeed = s.rxNeed := rfl
@[simp] theorem clearResults_txSum (s : State) : (clearResults s).txSum = s.txSum := rfl
@[simp] theorem clearResults_rxSum (s : State) : (clearResults s).rxSum = s.rxSum := rfl
@[simp] theorem clearResults_opLatch (s : State) : (clearResults s).opLatch = s.opLatch := rfl
@[simp] theorem clearResults_rxBuf (s : State) : (clearResults s).rxBuf = s.rxBuf := rfl
@[simp] theorem clearResults_result (s : State) : (clearResults s).result = .none := rfl
@[simp] theorem clearResults_checks (s : State) : (clearResults s).checks = .zero := rfl
@[simp] theorem clearResults_errCode (s : State) : (clearResults s).errCode = .none := rfl
@[simp] theorem clearResults_errStatus (s : State) : (clearResults s).errStatus = 0 := rfl
@[simp] theorem clearResults_errSeen (s : State) : (clearResults s).errSeen = s.errSeen := rfl
@[simp] theorem clearResults_rxQueue (s : State) : (clearResults s).rxQueue = s.rxQueue := rfl
@[simp] theorem clearResults_devBlock (s : State) : (clearResults s).devBlock = s.devBlock := rfl
@[simp] theorem clearResults_devBaud (s : State) : (clearResults s).devBaud = s.devBaud := rfl
@[simp] theorem clearResults_link (s : State) : (clearResults s).link = s.link := rfl
@[simp] theorem clearResults_rxTaken (s : State) : (clearResults s).rxTaken = s.rxTaken := rfl
@[simp] theorem clearResults_hostData (s : State) : (clearResults s).hostData = s.hostData := rfl
@[simp] theorem clearResults_inputs (s : State) : (clearResults s).inputs = s.inputs := rfl
@[simp] theorem clearResults_freeCtr (s : State) : (clearResults s).freeCtr = s.freeCtr := rfl

@[simp] theorem raise_txAddr (e : ErrCode) (info : Byte) (s : State) : (raise e info s).txAddr = s.txAddr := rfl
@[simp] theorem raise_txCmd (e : ErrCode) (info : Byte) (s : State) : (raise e info s).txCmd = s.txCmd := rfl
@[simp] theorem raise_txLen (e : ErrCode) (info : Byte) (s : State) : (raise e info s).txLen = s.txLen := rfl
@[simp] theorem raise_txBuf (e : ErrCode) (info : Byte) (s : State) : (raise e info s).txBuf = s.txBuf := rfl
@[simp] theorem raise_expCmd (e : ErrCode) (info : Byte) (s : State) : (raise e info s).expCmd = s.expCmd := rfl
@[simp] theorem raise_expLen (e : ErrCode) (info : Byte) (s : State) : (raise e info s).expLen = s.expLen := rfl
@[simp] theorem raise_kbMod (e : ErrCode) (info : Byte) (s : State) : (raise e info s).kbMod = s.kbMod := rfl
@[simp] theorem raise_kbCnt (e : ErrCode) (info : Byte) (s : State) : (raise e info s).kbCnt = s.kbCnt := rfl
@[simp] theorem raise_kbKey (e : ErrCode) (info : Byte) (s : State) : (raise e info s).kbKey = s.kbKey := rfl
@[simp] theorem raise_msDx (e : ErrCode) (info : Byte) (s : State) : (raise e info s).msDx = s.msDx := rfl
@[simp] theorem raise_msDy (e : ErrCode) (info : Byte) (s : State) : (raise e info s).msDy = s.msDy := rfl
@[simp] theorem raise_msBtn (e : ErrCode) (info : Byte) (s : State) : (raise e info s).msBtn = s.msBtn := rfl
@[simp] theorem raise_msWheel (e : ErrCode) (info : Byte) (s : State) : (raise e info s).msWheel = s.msWheel := rfl
@[simp] theorem raise_phase (e : ErrCode) (info : Byte) (s : State) : (raise e info s).phase = .done := rfl
@[simp] theorem raise_txIdx (e : ErrCode) (info : Byte) (s : State) : (raise e info s).txIdx = s.txIdx := rfl
@[simp] theorem raise_rxIdx (e : ErrCode) (info : Byte) (s : State) : (raise e info s).rxIdx = s.rxIdx := rfl
@[simp] theorem raise_rxNeed (e : ErrCode) (info : Byte) (s : State) : (raise e info s).rxNeed = s.rxNeed := rfl
@[simp] theorem raise_txSum (e : ErrCode) (info : Byte) (s : State) : (raise e info s).txSum = s.txSum := rfl
@[simp] theorem raise_rxSum (e : ErrCode) (info : Byte) (s : State) : (raise e info s).rxSum = s.rxSum := rfl
@[simp] theorem raise_opLatch (e : ErrCode) (info : Byte) (s : State) : (raise e info s).opLatch = s.opLatch := rfl
@[simp] theorem raise_rxBuf (e : ErrCode) (info : Byte) (s : State) : (raise e info s).rxBuf = s.rxBuf := rfl
@[simp] theorem raise_result (e : ErrCode) (info : Byte) (s : State) : (raise e info s).result = .err := rfl
@[simp] theorem raise_checks (e : ErrCode) (info : Byte) (s : State) : (raise e info s).checks = s.checks := rfl
@[simp] theorem raise_errCode (e : ErrCode) (info : Byte) (s : State) : (raise e info s).errCode = e := rfl
@[simp] theorem raise_errStatus (e : ErrCode) (info : Byte) (s : State) : (raise e info s).errStatus = (if e = .rejected then info else 0) := rfl
@[simp] theorem raise_errSeen (e : ErrCode) (info : Byte) (s : State) : (raise e info s).errSeen = s.errSeen ||| e.seenBit := rfl
@[simp] theorem raise_rxQueue (e : ErrCode) (info : Byte) (s : State) : (raise e info s).rxQueue = s.rxQueue := rfl
@[simp] theorem raise_devBlock (e : ErrCode) (info : Byte) (s : State) : (raise e info s).devBlock = s.devBlock := rfl
@[simp] theorem raise_devBaud (e : ErrCode) (info : Byte) (s : State) : (raise e info s).devBaud = s.devBaud := rfl
@[simp] theorem raise_link (e : ErrCode) (info : Byte) (s : State) : (raise e info s).link = s.link := rfl
@[simp] theorem raise_rxTaken (e : ErrCode) (info : Byte) (s : State) : (raise e info s).rxTaken = s.rxTaken := rfl
@[simp] theorem raise_hostData (e : ErrCode) (info : Byte) (s : State) : (raise e info s).hostData = s.hostData := rfl
@[simp] theorem raise_inputs (e : ErrCode) (info : Byte) (s : State) : (raise e info s).inputs = s.inputs := rfl
@[simp] theorem raise_freeCtr (e : ErrCode) (info : Byte) (s : State) : (raise e info s).freeCtr = s.freeCtr := rfl

@[simp] theorem finishOk_txAddr (s : State) : (finishOk s).txAddr = s.txAddr := rfl
@[simp] theorem finishOk_txCmd (s : State) : (finishOk s).txCmd = s.txCmd := rfl
@[simp] theorem finishOk_txLen (s : State) : (finishOk s).txLen = s.txLen := rfl
@[simp] theorem finishOk_txBuf (s : State) : (finishOk s).txBuf = s.txBuf := rfl
@[simp] theorem finishOk_expCmd (s : State) : (finishOk s).expCmd = s.expCmd := rfl
@[simp] theorem finishOk_expLen (s : State) : (finishOk s).expLen = s.expLen := rfl
@[simp] theorem finishOk_kbMod (s : State) : (finishOk s).kbMod = s.kbMod := rfl
@[simp] theorem finishOk_kbCnt (s : State) : (finishOk s).kbCnt = s.kbCnt := rfl
@[simp] theorem finishOk_kbKey (s : State) : (finishOk s).kbKey = s.kbKey := rfl
@[simp] theorem finishOk_msDx (s : State) : (finishOk s).msDx = s.msDx := rfl
@[simp] theorem finishOk_msDy (s : State) : (finishOk s).msDy = s.msDy := rfl
@[simp] theorem finishOk_msBtn (s : State) : (finishOk s).msBtn = s.msBtn := rfl
@[simp] theorem finishOk_msWheel (s : State) : (finishOk s).msWheel = s.msWheel := rfl
@[simp] theorem finishOk_phase (s : State) : (finishOk s).phase = .done := rfl
@[simp] theorem finishOk_txIdx (s : State) : (finishOk s).txIdx = s.txIdx := rfl
@[simp] theorem finishOk_rxIdx (s : State) : (finishOk s).rxIdx = s.rxIdx := rfl
@[simp] theorem finishOk_rxNeed (s : State) : (finishOk s).rxNeed = s.rxNeed := rfl
@[simp] theorem finishOk_txSum (s : State) : (finishOk s).txSum = s.txSum := rfl
@[simp] theorem finishOk_rxSum (s : State) : (finishOk s).rxSum = s.rxSum := rfl
@[simp] theorem finishOk_opLatch (s : State) : (finishOk s).opLatch = s.opLatch := rfl
@[simp] theorem finishOk_rxBuf (s : State) : (finishOk s).rxBuf = s.rxBuf := rfl
@[simp] theorem finishOk_result (s : State) : (finishOk s).result = .ok := rfl
@[simp] theorem finishOk_checks (s : State) : (finishOk s).checks = s.checks := rfl
@[simp] theorem finishOk_errCode (s : State) : (finishOk s).errCode = s.errCode := rfl
@[simp] theorem finishOk_errStatus (s : State) : (finishOk s).errStatus = s.errStatus := rfl
@[simp] theorem finishOk_errSeen (s : State) : (finishOk s).errSeen = s.errSeen := rfl
@[simp] theorem finishOk_rxQueue (s : State) : (finishOk s).rxQueue = s.rxQueue := rfl
@[simp] theorem finishOk_devBlock (s : State) : (finishOk s).devBlock = s.devBlock := rfl
@[simp] theorem finishOk_devBaud (s : State) : (finishOk s).devBaud = s.devBaud := rfl
@[simp] theorem finishOk_link (s : State) : (finishOk s).link = s.link := rfl
@[simp] theorem finishOk_rxTaken (s : State) : (finishOk s).rxTaken = s.rxTaken := rfl
@[simp] theorem finishOk_hostData (s : State) : (finishOk s).hostData = s.hostData := rfl
@[simp] theorem finishOk_inputs (s : State) : (finishOk s).inputs = s.inputs := rfl
@[simp] theorem finishOk_freeCtr (s : State) : (finishOk s).freeCtr = s.freeCtr := rfl

@[simp] theorem emit_txAddr (e : LinkEvent) (s : State) : (emit e s).txAddr = s.txAddr := rfl
@[simp] theorem emit_txCmd (e : LinkEvent) (s : State) : (emit e s).txCmd = s.txCmd := rfl
@[simp] theorem emit_txLen (e : LinkEvent) (s : State) : (emit e s).txLen = s.txLen := rfl
@[simp] theorem emit_txBuf (e : LinkEvent) (s : State) : (emit e s).txBuf = s.txBuf := rfl
@[simp] theorem emit_expCmd (e : LinkEvent) (s : State) : (emit e s).expCmd = s.expCmd := rfl
@[simp] theorem emit_expLen (e : LinkEvent) (s : State) : (emit e s).expLen = s.expLen := rfl
@[simp] theorem emit_kbMod (e : LinkEvent) (s : State) : (emit e s).kbMod = s.kbMod := rfl
@[simp] theorem emit_kbCnt (e : LinkEvent) (s : State) : (emit e s).kbCnt = s.kbCnt := rfl
@[simp] theorem emit_kbKey (e : LinkEvent) (s : State) : (emit e s).kbKey = s.kbKey := rfl
@[simp] theorem emit_msDx (e : LinkEvent) (s : State) : (emit e s).msDx = s.msDx := rfl
@[simp] theorem emit_msDy (e : LinkEvent) (s : State) : (emit e s).msDy = s.msDy := rfl
@[simp] theorem emit_msBtn (e : LinkEvent) (s : State) : (emit e s).msBtn = s.msBtn := rfl
@[simp] theorem emit_msWheel (e : LinkEvent) (s : State) : (emit e s).msWheel = s.msWheel := rfl
@[simp] theorem emit_phase (e : LinkEvent) (s : State) : (emit e s).phase = s.phase := rfl
@[simp] theorem emit_txIdx (e : LinkEvent) (s : State) : (emit e s).txIdx = s.txIdx := rfl
@[simp] theorem emit_rxIdx (e : LinkEvent) (s : State) : (emit e s).rxIdx = s.rxIdx := rfl
@[simp] theorem emit_rxNeed (e : LinkEvent) (s : State) : (emit e s).rxNeed = s.rxNeed := rfl
@[simp] theorem emit_txSum (e : LinkEvent) (s : State) : (emit e s).txSum = s.txSum := rfl
@[simp] theorem emit_rxSum (e : LinkEvent) (s : State) : (emit e s).rxSum = s.rxSum := rfl
@[simp] theorem emit_opLatch (e : LinkEvent) (s : State) : (emit e s).opLatch = s.opLatch := rfl
@[simp] theorem emit_rxBuf (e : LinkEvent) (s : State) : (emit e s).rxBuf = s.rxBuf := rfl
@[simp] theorem emit_result (e : LinkEvent) (s : State) : (emit e s).result = s.result := rfl
@[simp] theorem emit_checks (e : LinkEvent) (s : State) : (emit e s).checks = s.checks := rfl
@[simp] theorem emit_errCode (e : LinkEvent) (s : State) : (emit e s).errCode = s.errCode := rfl
@[simp] theorem emit_errStatus (e : LinkEvent) (s : State) : (emit e s).errStatus = s.errStatus := rfl
@[simp] theorem emit_errSeen (e : LinkEvent) (s : State) : (emit e s).errSeen = s.errSeen := rfl
@[simp] theorem emit_rxQueue (e : LinkEvent) (s : State) : (emit e s).rxQueue = s.rxQueue := rfl
@[simp] theorem emit_devBlock (e : LinkEvent) (s : State) : (emit e s).devBlock = s.devBlock := rfl
@[simp] theorem emit_devBaud (e : LinkEvent) (s : State) : (emit e s).devBaud = s.devBaud := rfl
@[simp] theorem emit_link (e : LinkEvent) (s : State) : (emit e s).link = s.link ++ [e] := rfl
@[simp] theorem emit_rxTaken (e : LinkEvent) (s : State) : (emit e s).rxTaken = s.rxTaken := rfl
@[simp] theorem emit_hostData (e : LinkEvent) (s : State) : (emit e s).hostData = s.hostData := rfl
@[simp] theorem emit_inputs (e : LinkEvent) (s : State) : (emit e s).inputs = s.inputs := rfl
@[simp] theorem emit_freeCtr (e : LinkEvent) (s : State) : (emit e s).freeCtr = s.freeCtr := rfl

@[simp] theorem flushRx_txAddr (s : State) : (flushRx s).txAddr = s.txAddr := rfl
@[simp] theorem flushRx_txCmd (s : State) : (flushRx s).txCmd = s.txCmd := rfl
@[simp] theorem flushRx_txLen (s : State) : (flushRx s).txLen = s.txLen := rfl
@[simp] theorem flushRx_txBuf (s : State) : (flushRx s).txBuf = s.txBuf := rfl
@[simp] theorem flushRx_expCmd (s : State) : (flushRx s).expCmd = s.expCmd := rfl
@[simp] theorem flushRx_expLen (s : State) : (flushRx s).expLen = s.expLen := rfl
@[simp] theorem flushRx_kbMod (s : State) : (flushRx s).kbMod = s.kbMod := rfl
@[simp] theorem flushRx_kbCnt (s : State) : (flushRx s).kbCnt = s.kbCnt := rfl
@[simp] theorem flushRx_kbKey (s : State) : (flushRx s).kbKey = s.kbKey := rfl
@[simp] theorem flushRx_msDx (s : State) : (flushRx s).msDx = s.msDx := rfl
@[simp] theorem flushRx_msDy (s : State) : (flushRx s).msDy = s.msDy := rfl
@[simp] theorem flushRx_msBtn (s : State) : (flushRx s).msBtn = s.msBtn := rfl
@[simp] theorem flushRx_msWheel (s : State) : (flushRx s).msWheel = s.msWheel := rfl
@[simp] theorem flushRx_phase (s : State) : (flushRx s).phase = s.phase := rfl
@[simp] theorem flushRx_txIdx (s : State) : (flushRx s).txIdx = s.txIdx := rfl
@[simp] theorem flushRx_rxIdx (s : State) : (flushRx s).rxIdx = s.rxIdx := rfl
@[simp] theorem flushRx_rxNeed (s : State) : (flushRx s).rxNeed = s.rxNeed := rfl
@[simp] theorem flushRx_txSum (s : State) : (flushRx s).txSum = s.txSum := rfl
@[simp] theorem flushRx_rxSum (s : State) : (flushRx s).rxSum = s.rxSum := rfl
@[simp] theorem flushRx_opLatch (s : State) : (flushRx s).opLatch = s.opLatch := rfl
@[simp] theorem flushRx_rxBuf (s : State) : (flushRx s).rxBuf = s.rxBuf := rfl
@[simp] theorem flushRx_result (s : State) : (flushRx s).result = s.result := rfl
@[simp] theorem flushRx_checks (s : State) : (flushRx s).checks = s.checks := rfl
@[simp] theorem flushRx_errCode (s : State) : (flushRx s).errCode = s.errCode := rfl
@[simp] theorem flushRx_errStatus (s : State) : (flushRx s).errStatus = s.errStatus := rfl
@[simp] theorem flushRx_errSeen (s : State) : (flushRx s).errSeen = s.errSeen := rfl
@[simp] theorem flushRx_rxQueue (s : State) : (flushRx s).rxQueue = [] := rfl
@[simp] theorem flushRx_devBlock (s : State) : (flushRx s).devBlock = s.devBlock := rfl
@[simp] theorem flushRx_devBaud (s : State) : (flushRx s).devBaud = s.devBaud := rfl
@[simp] theorem flushRx_link (s : State) : (flushRx s).link = s.link ++ [.rxFlush] := rfl
@[simp] theorem flushRx_rxTaken (s : State) : (flushRx s).rxTaken = s.rxTaken := rfl
@[simp] theorem flushRx_hostData (s : State) : (flushRx s).hostData = s.hostData := rfl
@[simp] theorem flushRx_inputs (s : State) : (flushRx s).inputs = s.inputs := rfl
@[simp] theorem flushRx_freeCtr (s : State) : (flushRx s).freeCtr = s.freeCtr := rfl

@[simp] theorem flushTx_txAddr (s : State) : (flushTx s).txAddr = s.txAddr := rfl
@[simp] theorem flushTx_txCmd (s : State) : (flushTx s).txCmd = s.txCmd := rfl
@[simp] theorem flushTx_txLen (s : State) : (flushTx s).txLen = s.txLen := rfl
@[simp] theorem flushTx_txBuf (s : State) : (flushTx s).txBuf = s.txBuf := rfl
@[simp] theorem flushTx_expCmd (s : State) : (flushTx s).expCmd = s.expCmd := rfl
@[simp] theorem flushTx_expLen (s : State) : (flushTx s).expLen = s.expLen := rfl
@[simp] theorem flushTx_kbMod (s : State) : (flushTx s).kbMod = s.kbMod := rfl
@[simp] theorem flushTx_kbCnt (s : State) : (flushTx s).kbCnt = s.kbCnt := rfl
@[simp] theorem flushTx_kbKey (s : State) : (flushTx s).kbKey = s.kbKey := rfl
@[simp] theorem flushTx_msDx (s : State) : (flushTx s).msDx = s.msDx := rfl
@[simp] theorem flushTx_msDy (s : State) : (flushTx s).msDy = s.msDy := rfl
@[simp] theorem flushTx_msBtn (s : State) : (flushTx s).msBtn = s.msBtn := rfl
@[simp] theorem flushTx_msWheel (s : State) : (flushTx s).msWheel = s.msWheel := rfl
@[simp] theorem flushTx_phase (s : State) : (flushTx s).phase = s.phase := rfl
@[simp] theorem flushTx_txIdx (s : State) : (flushTx s).txIdx = s.txIdx := rfl
@[simp] theorem flushTx_rxIdx (s : State) : (flushTx s).rxIdx = s.rxIdx := rfl
@[simp] theorem flushTx_rxNeed (s : State) : (flushTx s).rxNeed = s.rxNeed := rfl
@[simp] theorem flushTx_txSum (s : State) : (flushTx s).txSum = s.txSum := rfl
@[simp] theorem flushTx_rxSum (s : State) : (flushTx s).rxSum = s.rxSum := rfl
@[simp] theorem flushTx_opLatch (s : State) : (flushTx s).opLatch = s.opLatch := rfl
@[simp] theorem flushTx_rxBuf (s : State) : (flushTx s).rxBuf = s.rxBuf := rfl
@[simp] theorem flushTx_result (s : State) : (flushTx s).result = s.result := rfl
@[simp] theorem flushTx_checks (s : State) : (flushTx s).checks = s.checks := rfl
@[simp] theorem flushTx_errCode (s : State) : (flushTx s).errCode = s.errCode := rfl
@[simp] theorem flushTx_errStatus (s : State) : (flushTx s).errStatus = s.errStatus := rfl
@[simp] theorem flushTx_errSeen (s : State) : (flushTx s).errSeen = s.errSeen := rfl
@[simp] theorem flushTx_rxQueue (s : State) : (flushTx s).rxQueue = s.rxQueue := rfl
@[simp] theorem flushTx_devBlock (s : State) : (flushTx s).devBlock = s.devBlock := rfl
@[simp] theorem flushTx_devBaud (s : State) : (flushTx s).devBaud = s.devBaud := rfl
@[simp] theorem flushTx_link (s : State) : (flushTx s).link = s.link ++ [.txFlush] := rfl
@[simp] theorem flushTx_rxTaken (s : State) : (flushTx s).rxTaken = s.rxTaken := rfl
@[simp] theorem flushTx_hostData (s : State) : (flushTx s).hostData = s.hostData := rfl
@[simp] theorem flushTx_inputs (s : State) : (flushTx s).inputs = s.inputs := rfl
@[simp] theorem flushTx_freeCtr (s : State) : (flushTx s).freeCtr = s.freeCtr := rfl

@[simp] theorem beginTransmit_txAddr (s : State) : (beginTransmit s).txAddr = s.txAddr := rfl
@[simp] theorem beginTransmit_txCmd (s : State) : (beginTransmit s).txCmd = s.txCmd := rfl
@[simp] theorem beginTransmit_txLen (s : State) : (beginTransmit s).txLen = s.txLen := rfl
@[simp] theorem beginTransmit_txBuf (s : State) : (beginTransmit s).txBuf = s.txBuf := rfl
@[simp] theorem beginTransmit_expCmd (s : State) : (beginTransmit s).expCmd = s.expCmd := rfl
@[simp] theorem beginTransmit_expLen (s : State) : (beginTransmit s).expLen = s.expLen := rfl
@[simp] theorem beginTransmit_kbMod (s : State) : (beginTransmit s).kbMod = s.kbMod := rfl
@[simp] theorem beginTransmit_kbCnt (s : State) : (beginTransmit s).kbCnt = s.kbCnt := rfl
@[simp] theorem beginTransmit_kbKey (s : State) : (beginTransmit s).kbKey = s.kbKey := rfl
@[simp] theorem beginTransmit_msDx (s : State) : (beginTransmit s).msDx = s.msDx := rfl
@[simp] theorem beginTransmit_msDy (s : State) : (beginTransmit s).msDy = s.msDy := rfl
@[simp] theorem beginTransmit_msBtn (s : State) : (beginTransmit s).msBtn = s.msBtn := rfl
@[simp] theorem beginTransmit_msWheel (s : State) : (beginTransmit s).msWheel = s.msWheel := rfl
@[simp] theorem beginTransmit_phase (s : State) : (beginTransmit s).phase = .tx := rfl
@[simp] theorem beginTransmit_txIdx (s : State) : (beginTransmit s).txIdx = 0 := rfl
@[simp] theorem beginTransmit_rxIdx (s : State) : (beginTransmit s).rxIdx = s.rxIdx := rfl
@[simp] theorem beginTransmit_rxNeed (s : State) : (beginTransmit s).rxNeed = s.rxNeed := rfl
@[simp] theorem beginTransmit_txSum (s : State) : (beginTransmit s).txSum = 0 := rfl
@[simp] theorem beginTransmit_rxSum (s : State) : (beginTransmit s).rxSum = s.rxSum := rfl
@[simp] theorem beginTransmit_opLatch (s : State) : (beginTransmit s).opLatch = s.opLatch := rfl
@[simp] theorem beginTransmit_rxBuf (s : State) : (beginTransmit s).rxBuf = s.rxBuf := rfl
@[simp] theorem beginTransmit_result (s : State) : (beginTransmit s).result = s.result := rfl
@[simp] theorem beginTransmit_checks (s : State) : (beginTransmit s).checks = s.checks := rfl
@[simp] theorem beginTransmit_errCode (s : State) : (beginTransmit s).errCode = s.errCode := rfl
@[simp] theorem beginTransmit_errStatus (s : State) : (beginTransmit s).errStatus = s.errStatus := rfl
@[simp] theorem beginTransmit_errSeen (s : State) : (beginTransmit s).errSeen = s.errSeen := rfl
@[simp] theorem beginTransmit_rxQueue (s : State) : (beginTransmit s).rxQueue = s.rxQueue := rfl
@[simp] theorem beginTransmit_devBlock (s : State) : (beginTransmit s).devBlock = s.devBlock := rfl
@[simp] theorem beginTransmit_devBaud (s : State) : (beginTransmit s).devBaud = s.devBaud := rfl
@[simp] theorem beginTransmit_link (s : State) : (beginTransmit s).link = s.link := rfl
@[simp] theorem beginTransmit_rxTaken (s : State) : (beginTransmit s).rxTaken = s.rxTaken := rfl
@[simp] theorem beginTransmit_hostData (s : State) : (beginTransmit s).hostData = s.hostData := rfl
@[simp] theorem beginTransmit_inputs (s : State) : (beginTransmit s).inputs = s.inputs := rfl
@[simp] theorem beginTransmit_freeCtr (s : State) : (beginTransmit s).freeCtr = s.freeCtr := rfl

@[simp] theorem beginReceive_txAddr (s : State) : (beginReceive s).txAddr = s.txAddr := rfl
@[simp] theorem beginReceive_txCmd (s : State) : (beginReceive s).txCmd = s.txCmd := rfl
@[simp] theorem beginReceive_txLen (s : State) : (beginReceive s).txLen = s.txLen := rfl
@[simp] theorem beginReceive_txBuf (s : State) : (beginReceive s).txBuf = s.txBuf := rfl
@[simp] theorem beginReceive_expCmd (s : State) : (beginReceive s).expCmd = s.expCmd := rfl
@[simp] theorem beginReceive_expLen (s : State) : (beginReceive s).expLen = s.expLen := rfl
@[simp] theorem beginReceive_kbMod (s : State) : (beginReceive s).kbMod = s.kbMod := rfl
@[simp] theorem beginReceive_kbCnt (s : State) : (beginReceive s).kbCnt = s.kbCnt := rfl
@[simp] theorem beginReceive_kbKey (s : State) : (beginReceive s).kbKey = s.kbKey := rfl
@[simp] theorem beginReceive_msDx (s : State) : (beginReceive s).msDx = s.msDx := rfl
@[simp] theorem beginReceive_msDy (s : State) : (beginReceive s).msDy = s.msDy := rfl
@[simp] theorem beginReceive_msBtn (s : State) : (beginReceive s).msBtn = s.msBtn := rfl
@[simp] theorem beginReceive_msWheel (s : State) : (beginReceive s).msWheel = s.msWheel := rfl
@[simp] theorem beginReceive_phase (s : State) : (beginReceive s).phase = .rx := rfl
@[simp] theorem beginReceive_txIdx (s : State) : (beginReceive s).txIdx = s.txIdx := rfl
@[simp] theorem beginReceive_rxIdx (s : State) : (beginReceive s).rxIdx = 0 := rfl
@[simp] theorem beginReceive_rxNeed (s : State) : (beginReceive s).rxNeed = s.expLen.setWidth 9 + 6 := rfl
@[simp] theorem beginReceive_txSum (s : State) : (beginReceive s).txSum = s.txSum := rfl
@[simp] theorem beginReceive_rxSum (s : State) : (beginReceive s).rxSum = 0 := rfl
@[simp] theorem beginReceive_opLatch (s : State) : (beginReceive s).opLatch = s.opLatch := rfl
@[simp] theorem beginReceive_rxBuf (s : State) : (beginReceive s).rxBuf = s.rxBuf := rfl
@[simp] theorem beginReceive_result (s : State) : (beginReceive s).result = s.result := rfl
@[simp] theorem beginReceive_checks (s : State) : (beginReceive s).checks = s.checks := rfl
@[simp] theorem beginReceive_errCode (s : State) : (beginReceive s).errCode = s.errCode := rfl
@[simp] theorem beginReceive_errStatus (s : State) : (beginReceive s).errStatus = s.errStatus := rfl
@[simp] theorem beginReceive_errSeen (s : State) : (beginReceive s).errSeen = s.errSeen := rfl
@[simp] theorem beginReceive_rxQueue (s : State) : (beginReceive s).rxQueue = s.rxQueue := rfl
@[simp] theorem beginReceive_devBlock (s : State) : (beginReceive s).devBlock = s.devBlock := rfl
@[simp] theorem beginReceive_devBaud (s : State) : (beginReceive s).devBaud = s.devBaud := rfl
@[simp] theorem beginReceive_link (s : State) : (beginReceive s).link = s.link := rfl
@[simp] theorem beginReceive_rxTaken (s : State) : (beginReceive s).rxTaken = s.rxTaken := rfl
@[simp] theorem beginReceive_hostData (s : State) : (beginReceive s).hostData = s.hostData := rfl
@[simp] theorem beginReceive_inputs (s : State) : (beginReceive s).inputs = s.inputs := rfl
@[simp] theorem beginReceive_freeCtr (s : State) : (beginReceive s).freeCtr = s.freeCtr := rfl

@[simp] theorem arriveBytes_txAddr (bs : List Byte) (s : State) : (arriveBytes bs s).txAddr = s.txAddr := rfl
@[simp] theorem arriveBytes_txCmd (bs : List Byte) (s : State) : (arriveBytes bs s).txCmd = s.txCmd := rfl
@[simp] theorem arriveBytes_txLen (bs : List Byte) (s : State) : (arriveBytes bs s).txLen = s.txLen := rfl
@[simp] theorem arriveBytes_txBuf (bs : List Byte) (s : State) : (arriveBytes bs s).txBuf = s.txBuf := rfl
@[simp] theorem arriveBytes_expCmd (bs : List Byte) (s : State) : (arriveBytes bs s).expCmd = s.expCmd := rfl
@[simp] theorem arriveBytes_expLen (bs : List Byte) (s : State) : (arriveBytes bs s).expLen = s.expLen := rfl
@[simp] theorem arriveBytes_kbMod (bs : List Byte) (s : State) : (arriveBytes bs s).kbMod = s.kbMod := rfl
@[simp] theorem arriveBytes_kbCnt (bs : List Byte) (s : State) : (arriveBytes bs s).kbCnt = s.kbCnt := rfl
@[simp] theorem arriveBytes_kbKey (bs : List Byte) (s : State) : (arriveBytes bs s).kbKey = s.kbKey := rfl
@[simp] theorem arriveBytes_msDx (bs : List Byte) (s : State) : (arriveBytes bs s).msDx = s.msDx := rfl
@[simp] theorem arriveBytes_msDy (bs : List Byte) (s : State) : (arriveBytes bs s).msDy = s.msDy := rfl
@[simp] theorem arriveBytes_msBtn (bs : List Byte) (s : State) : (arriveBytes bs s).msBtn = s.msBtn := rfl
@[simp] theorem arriveBytes_msWheel (bs : List Byte) (s : State) : (arriveBytes bs s).msWheel = s.msWheel := rfl
@[simp] theorem arriveBytes_phase (bs : List Byte) (s : State) : (arriveBytes bs s).phase = s.phase := rfl
@[simp] theorem arriveBytes_txIdx (bs : List Byte) (s : State) : (arriveBytes bs s).txIdx = s.txIdx := rfl
@[simp] theorem arriveBytes_rxIdx (bs : List Byte) (s : State) : (arriveBytes bs s).rxIdx = s.rxIdx := rfl
@[simp] theorem arriveBytes_rxNeed (bs : List Byte) (s : State) : (arriveBytes bs s).rxNeed = s.rxNeed := rfl
@[simp] theorem arriveBytes_txSum (bs : List Byte) (s : State) : (arriveBytes bs s).txSum = s.txSum := rfl
@[simp] theorem arriveBytes_rxSum (bs : List Byte) (s : State) : (arriveBytes bs s).rxSum = s.rxSum := rfl
@[simp] theorem arriveBytes_opLatch (bs : List Byte) (s : State) : (arriveBytes bs s).opLatch = s.opLatch := rfl
@[simp] theorem arriveBytes_rxBuf (bs : List Byte) (s : State) : (arriveBytes bs s).rxBuf = s.rxBuf := rfl
@[simp] theorem arriveBytes_result (bs : List Byte) (s : State) : (arriveBytes bs s).result = s.result := rfl
@[simp] theorem arriveBytes_checks (bs : List Byte) (s : State) : (arriveBytes bs s).checks = s.checks := rfl
@[simp] theorem arriveBytes_errCode (bs : List Byte) (s : State) : (arriveBytes bs s).errCode = s.errCode := rfl
@[simp] theorem arriveBytes_errStatus (bs : List Byte) (s : State) : (arriveBytes bs s).errStatus = s.errStatus := rfl
@[simp] theorem arriveBytes_errSeen (bs : List Byte) (s : State) : (arriveBytes bs s).errSeen = s.errSeen := rfl
@[simp] theorem arriveBytes_rxQueue (bs : List Byte) (s : State) : (arriveBytes bs s).rxQueue = s.rxQueue ++ bs := rfl
@[simp] theorem arriveBytes_devBlock (bs : List Byte) (s : State) : (arriveBytes bs s).devBlock = s.devBlock := rfl
@[simp] theorem arriveBytes_devBaud (bs : List Byte) (s : State) : (arriveBytes bs s).devBaud = s.devBaud := rfl
@[simp] theorem arriveBytes_link (bs : List Byte) (s : State) : (arriveBytes bs s).link = s.link := rfl
@[simp] theorem arriveBytes_rxTaken (bs : List Byte) (s : State) : (arriveBytes bs s).rxTaken = s.rxTaken := rfl
@[simp] theorem arriveBytes_hostData (bs : List Byte) (s : State) : (arriveBytes bs s).hostData = s.hostData := rfl
@[simp] theorem arriveBytes_inputs (bs : List Byte) (s : State) : (arriveBytes bs s).inputs = s.inputs := rfl
@[simp] theorem arriveBytes_freeCtr (bs : List Byte) (s : State) : (arriveBytes bs s).freeCtr = s.freeCtr := rfl

@[simp] theorem dropInput_txAddr (s : State) : (dropInput s).txAddr = s.txAddr := rfl
@[simp] theorem dropInput_txCmd (s : State) : (dropInput s).txCmd = s.txCmd := rfl
@[simp] theorem dropInput_txLen (s : State) : (dropInput s).txLen = s.txLen := rfl
@[simp] theorem dropInput_txBuf (s : State) : (dropInput s).txBuf = s.txBuf := rfl
@[simp] theorem dropInput_expCmd (s : State) : (dropInput s).expCmd = s.expCmd := rfl
@[simp] theorem dropInput_expLen (s : State) : (dropInput s).expLen = s.expLen := rfl
@[simp] theorem dropInput_kbMod (s : State) : (dropInput s).kbMod = s.kbMod := rfl
@[simp] theorem dropInput_kbCnt (s : State) : (dropInput s).kbCnt = s.kbCnt := rfl
@[simp] theorem dropInput_kbKey (s : State) : (dropInput s).kbKey = s.kbKey := rfl
@[simp] theorem dropInput_msDx (s : State) : (dropInput s).msDx = s.msDx := rfl
@[simp] theorem dropInput_msDy (s : State) : (dropInput s).msDy = s.msDy := rfl
@[simp] theorem dropInput_msBtn (s : State) : (dropInput s).msBtn = s.msBtn := rfl
@[simp] theorem dropInput_msWheel (s : State) : (dropInput s).msWheel = s.msWheel := rfl
@[simp] theorem dropInput_phase (s : State) : (dropInput s).phase = s.phase := rfl
@[simp] theorem dropInput_txIdx (s : State) : (dropInput s).txIdx = s.txIdx := rfl
@[simp] theorem dropInput_rxIdx (s : State) : (dropInput s).rxIdx = s.rxIdx := rfl
@[simp] theorem dropInput_rxNeed (s : State) : (dropInput s).rxNeed = s.rxNeed := rfl
@[simp] theorem dropInput_txSum (s : State) : (dropInput s).txSum = s.txSum := rfl
@[simp] theorem dropInput_rxSum (s : State) : (dropInput s).rxSum = s.rxSum := rfl
@[simp] theorem dropInput_opLatch (s : State) : (dropInput s).opLatch = s.opLatch := rfl
@[simp] theorem dropInput_rxBuf (s : State) : (dropInput s).rxBuf = s.rxBuf := rfl
@[simp] theorem dropInput_result (s : State) : (dropInput s).result = s.result := rfl
@[simp] theorem dropInput_checks (s : State) : (dropInput s).checks = s.checks := rfl
@[simp] theorem dropInput_errCode (s : State) : (dropInput s).errCode = s.errCode := rfl
@[simp] theorem dropInput_errStatus (s : State) : (dropInput s).errStatus = s.errStatus := rfl
@[simp] theorem dropInput_errSeen (s : State) : (dropInput s).errSeen = s.errSeen := rfl
@[simp] theorem dropInput_rxQueue (s : State) : (dropInput s).rxQueue = s.rxQueue := rfl
@[simp] theorem dropInput_devBlock (s : State) : (dropInput s).devBlock = s.devBlock := rfl
@[simp] theorem dropInput_devBaud (s : State) : (dropInput s).devBaud = s.devBaud := rfl
@[simp] theorem dropInput_link (s : State) : (dropInput s).link = s.link := rfl
@[simp] theorem dropInput_rxTaken (s : State) : (dropInput s).rxTaken = s.rxTaken := rfl
@[simp] theorem dropInput_hostData (s : State) : (dropInput s).hostData = s.hostData := rfl
@[simp] theorem dropInput_inputs (s : State) : (dropInput s).inputs = s.inputs.tail := rfl
@[simp] theorem dropInput_freeCtr (s : State) : (dropInput s).freeCtr = s.freeCtr := rfl

end Sys2Proof.Machine
end

