-- ==== Sys2Proof/Laws/Receive.lean ====
section
/-! SUPPORT. What the receive engine does: each step takes the byte at the front of the input buffer, and a full read ends
in the verdict on exactly the bytes taken (spec/41_frame_receive.md R156, R158, R159). -/

namespace Sys2Proof.Machine

theorem memWriteList_append_one (size : Nat) (bs : List Byte) (b : Byte) (m : Mem) (i : Nat) :
    memWriteList size m i (bs ++ [b]) = memWrite size (memWriteList size m i bs) (i + bs.length) b := by
  induction bs generalizing m i with
  | nil => simp [memWriteList]
  | cons c bs ih =>
    simp only [List.cons_append, memWriteList, ih, List.length_cons]
    congr 1
    omega

/-- Everything a verdict can do: one of two ends, both `DONE`. -/
theorem verdict_cases (s : State) :
    (∃ e info, verdict s = raise e info { s with checks := checksAtVerdict s } ∧ e ≠ .none ∧ (e ≠ .rejected → info = 0) ∧
      (e = .rejected → info ≠ 0)) ∨
    verdict s = finishOk { s with checks := checksAtVerdict s } := by
  unfold verdict
  simp only []
  split
  · rename_i e he
    left
    refine ⟨e, 0, rfl, ?_, fun _ => rfl, ?_⟩
    · intro h
      subst h
      revert he
      simp only [Checks.firstFailure]
      repeat' split
      all_goals simp
    · intro h
      subst h
      revert he
      simp only [Checks.firstFailure]
      repeat' split
      all_goals simp
  · split
    · rename_i h
      left
      refine ⟨.rejected, _, rfl, by simp, by simp, fun _ => h.2⟩
    · right
      rfl

theorem verdict_phase (s : State) : (verdict s).phase = .done := by
  rcases verdict_cases s with ⟨e, info, h, -⟩ | h <;> rw [h] <;> rfl

theorem receiveStep_of_not_receiving (s : State) (h : receiving s = false) : receiveStep s = s := by
  simp [receiveStep, h]

theorem receiveMany_of_not_receiving (s : State) (h : receiving s = false) (n : Nat) : receiveMany n s = s := by
  induction n with
  | zero => rfl
  | succ n ih => rw [receiveMany, receiveStep_of_not_receiving s h, ih]

theorem receiveStep_of_empty (s : State) (h : s.rxQueue = []) : receiveStep s = s := by
  simp [receiveStep, h]

theorem receiveMany_of_empty (s : State) (h : s.rxQueue = []) (n : Nat) : receiveMany n s = s := by
  induction n with
  | zero => rfl
  | succ n ih => rw [receiveMany, receiveStep_of_empty s h, ih]

theorem not_receiving_of_phase (s : State) (h : s.phase ≠ .rx) : receiving s = false := by
  simp [receiving, h]

/-- Outside phase `RX` a frame only arrives (R71). -/
theorem receiveMany_of_phase (s : State) (h : s.phase ≠ .rx) (n : Nat) : receiveMany n s = s :=
  receiveMany_of_not_receiving s (not_receiving_of_phase s h) n

/-- R156 before the last byte. -/
theorem receiveStep_inside (s : State) (b : Byte) (rest : List Byte) (hp : s.phase = .rx) (hq : s.rxQueue = b :: rest)
    (h : s.rxIdx.toNat + 1 < s.rxNeed.toNat) :
    receiveStep s = { s with
      rxQueue := rest
      rxTaken := s.rxTaken + 1
      rxBuf := memWrite cfg.rxBufCells s.rxBuf s.rxIdx.toNat b
      rxSum := s.rxSum + b
      rxIdx := s.rxIdx + 1 } := by
  have h1 : s.rxIdx.toNat < s.rxNeed.toNat := by omega
  have h2 : s.rxIdx.toNat + 1 ≠ s.rxNeed.toNat := by omega
  simp [receiveStep, receiving, hp, hq, h1, takeByte, h, h2]

/-- R156, R158 on the last byte: it is stored, not added, and the verdict is issued in the same step. -/
theorem receiveStep_last (s : State) (b : Byte) (rest : List Byte) (hp : s.phase = .rx) (hq : s.rxQueue = b :: rest)
    (h : s.rxIdx.toNat + 1 = s.rxNeed.toNat) :
    receiveStep s = verdict { s with
      rxQueue := rest
      rxTaken := s.rxTaken + 1
      rxBuf := memWrite cfg.rxBufCells s.rxBuf s.rxIdx.toNat b
      rxIdx := s.rxIdx + 1 } := by
  have h1 : s.rxIdx.toNat < s.rxNeed.toNat := by omega
  simp [receiveStep, receiving, hp, hq, h1, takeByte, h]

/-- Everything a receive step can do: nothing; else it takes the byte at the front of the input buffer, and at the last byte
needed the verdict follows. -/
theorem receiveStep_cases (s : State) :
    receiveStep s = s ∨
    (s.phase = .rx ∧ ∃ b rest, s.rxQueue = b :: rest ∧
      ((s.rxIdx.toNat + 1 < s.rxNeed.toNat ∧
          receiveStep s = { s with
            rxQueue := rest
            rxTaken := s.rxTaken + 1
            rxBuf := memWrite cfg.rxBufCells s.rxBuf s.rxIdx.toNat b
            rxSum := s.rxSum + b
            rxIdx := s.rxIdx + 1 }) ∨
        (s.rxIdx.toNat + 1 = s.rxNeed.toNat ∧
          receiveStep s = verdict { s with
            rxQueue := rest
            rxTaken := s.rxTaken + 1
            rxBuf := memWrite cfg.rxBufCells s.rxBuf s.rxIdx.toNat b
            rxIdx := s.rxIdx + 1 }))) := by
  cases hr : receiving s with
  | false => exact .inl (receiveStep_of_not_receiving s hr)
  | true =>
    have hr' := hr
    simp only [receiving, Bool.and_eq_true, beq_iff_eq, decide_eq_true_eq] at hr'
    cases hq : s.rxQueue with
    | nil => exact .inl (receiveStep_of_empty s hq)
    | cons b rest =>
      right
      refine ⟨hr'.1, b, rest, rfl, ?_⟩
      by_cases h : s.rxIdx.toNat + 1 < s.rxNeed.toNat
      · exact .inl ⟨h, receiveStep_inside s b rest hr'.1 hq h⟩
      · have h : s.rxIdx.toNat + 1 = s.rxNeed.toNat := by omega
        exact .inr ⟨h, receiveStep_last s b rest hr'.1 hq h⟩

/-- The state after `k` bytes of `f` have been taken, `s` being a state of the receive phase, its start or later, and `rest`
what stands behind `f` in the input buffer. -/
def takenBytes (s : State) (f rest : List Byte) (k : Nat) : State :=
  { s with
    rxQueue := f.drop k ++ rest
    rxTaken := s.rxTaken + k
    rxBuf := memWriteList cfg.rxBufCells s.rxBuf s.rxIdx.toNat (f.take k)
    rxSum := s.rxSum + sum8 (f.take k)
    rxIdx := BitVec.ofNat 9 (s.rxIdx.toNat + k) }

/-- The state at the verdict, `f` being the bytes that were missing in `s`. -/
def takenFrame (s : State) (f rest : List Byte) : State :=
  { s with
    rxQueue := rest
    rxTaken := s.rxTaken + f.length
    rxBuf := memWriteList cfg.rxBufCells s.rxBuf s.rxIdx.toNat f
    rxSum := s.rxSum + sum8 (f.take (f.length - 1))
    rxIdx := BitVec.ofNat 9 (s.rxIdx.toNat + f.length) }

theorem rxIdx_takenBytes (s : State) (f rest : List Byte) (k : Nat) (h : s.rxIdx.toNat + k < s.rxNeed.toNat) :
    (takenBytes s f rest k).rxIdx.toNat = s.rxIdx.toNat + k := by
  have hlt := s.rxNeed.isLt
  simp only [takenBytes, BitVec.toNat_ofNat]
  omega

theorem rxQueue_takenBytes (s : State) (f rest : List Byte) (k : Nat) (hk : k < f.length) :
    (takenBytes s f rest k).rxQueue = f[k] :: (f.drop (k + 1) ++ rest) := by
  simp only [takenBytes]
  rw [List.drop_eq_getElem_cons hk, List.cons_append]

/-- Writing the bytes taken one by one is writing them in a row. -/
theorem memWriteList_take_succ (m : Mem) (i : Nat) (f : List Byte) (k : Nat) (hk : k < f.length) :
    memWrite cfg.rxBufCells (memWriteList cfg.rxBufCells m i (f.take k)) (i + k) f[k]
      = memWriteList cfg.rxBufCells m i (f.take (k + 1)) := by
  have htk : f.take (k + 1) = f.take k ++ [f[k]] := (List.take_concat_get' f k hk).symm
  rw [htk, memWriteList_append_one, List.length_take, Nat.min_eq_left (Nat.le_of_lt hk)]

theorem ofNat_add_one (k : Nat) : BitVec.ofNat 9 k + 1 = BitVec.ofNat 9 (k + 1) := by
  apply BitVec.eq_of_toNat_eq
  simp

theorem receiveStep_takenBytes (s : State) (f rest : List Byte) (hp : s.phase = .rx) (k : Nat)
    (hk : k < f.length) (hn : s.rxIdx.toNat + k + 1 < s.rxNeed.toNat) :
    receiveStep (takenBytes s f rest k) = takenBytes s f rest (k + 1) := by
  have hidx := rxIdx_takenBytes s f rest k (by omega)
  have hneed : (takenBytes s f rest k).rxNeed = s.rxNeed := rfl
  rw [receiveStep_inside (takenBytes s f rest k) f[k] _ hp (rxQueue_takenBytes s f rest k hk)
    (by rw [hidx, hneed]; exact hn)]
  have htk : f.take (k + 1) = f.take k ++ [f[k]] := (List.take_concat_get' f k hk).symm
  rw [hidx]
  simp only [takenBytes, memWriteList_take_succ _ _ f k hk, ofNat_add_one, Nat.add_assoc]
  rw [htk, sum8_append_one, BitVec.add_assoc]

theorem receiveStep_takenFrame (s : State) (f rest : List Byte) (hp : s.phase = .rx)
    (hn : s.rxNeed.toNat = s.rxIdx.toNat + f.length) (hpos : 0 < f.length) :
    receiveStep (takenBytes s f rest (f.length - 1)) = verdict (takenFrame s f rest) := by
  have hk : f.length - 1 < f.length := by omega
  have hidx := rxIdx_takenBytes s f rest (f.length - 1) (by omega)
  have hneed : (takenBytes s f rest (f.length - 1)).rxNeed = s.rxNeed := rfl
  have hq := rxQueue_takenBytes s f rest (f.length - 1) hk
  rw [List.drop_eq_nil_of_le (by omega), List.nil_append] at hq
  rw [receiveStep_last (takenBytes s f rest (f.length - 1)) f[f.length - 1] _ hp hq (by rw [hidx, hneed]; omega)]
  have hbuf := memWriteList_take_succ s.rxBuf s.rxIdx.toNat f (f.length - 1) hk
  rw [List.take_of_length_le (show f.length ≤ f.length - 1 + 1 by omega)] at hbuf
  have htaken : s.rxTaken + (f.length - 1) + 1 = s.rxTaken + f.length := by omega
  have hcount : s.rxIdx.toNat + (f.length - 1) + 1 = s.rxIdx.toNat + f.length := by omega
  rw [hidx]
  simp only [takenBytes, takenFrame, hbuf, ofNat_add_one, htaken, hcount]

theorem receiveMany_takenBytes (s : State) (f rest : List Byte) (hp : s.phase = .rx) (n k : Nat)
    (hk : k + n ≤ f.length) (hn : s.rxIdx.toNat + k + n < s.rxNeed.toNat) :
    receiveMany n (takenBytes s f rest k) = takenBytes s f rest (k + n) := by
  induction n generalizing k with
  | zero => rfl
  | succ n ih =>
    rw [receiveMany, receiveStep_takenBytes s f rest hp k (by omega) (by omega), ih (k + 1) (by omega) (by omega)]
    congr 1
    omega

theorem takenBytes_zero (s : State) (f rest : List Byte) (hq : s.rxQueue = f ++ rest) : takenBytes s f rest 0 = s := by
  cases s
  simp_all [takenBytes, memWriteList, sum8_nil]

theorem receiveMany_add (m n : Nat) (s : State) : receiveMany (m + n) s = receiveMany n (receiveMany m s) := by
  induction m generalizing s with
  | zero => simp [receiveMany]
  | succ m ih => rw [Nat.succ_add, receiveMany, ih, receiveMany]

/-- With the bytes `f` that are still needed at the front of the input buffer, as many receive steps (or more) take exactly
`f` and issue the verdict (R156, R158, R159). -/
theorem receiveMany_frame (s : State) (f rest : List Byte) (hp : s.phase = .rx) (hq : s.rxQueue = f ++ rest)
    (hn : s.rxNeed.toNat = s.rxIdx.toNat + f.length) (hpos : 0 < f.length) (n : Nat) (hle : f.length ≤ n) :
    receiveMany n s = verdict (takenFrame s f rest) := by
  have h0 := takenBytes_zero s f rest hq
  have hsplit : n = (f.length - 1) + (1 + (n - f.length)) := by omega
  rw [hsplit, receiveMany_add]
  have := receiveMany_takenBytes s f rest hp (f.length - 1) 0 (by omega) (by omega)
  rw [h0] at this
  rw [this, Nat.zero_add, Nat.add_comm 1, receiveMany, receiveStep_takenFrame s f rest hp hn hpos]
  exact receiveMany_of_not_receiving _ (not_receiving_of_phase _ (by rw [verdict_phase]; simp)) _

/-- With fewer bytes in the input buffer than are still needed, exactly they are taken (R156, R159). -/
theorem receiveMany_short (s : State) (f : List Byte) (hp : s.phase = .rx) (hq : s.rxQueue = f)
    (hn : s.rxIdx.toNat + f.length < s.rxNeed.toNat) :
    receiveMany f.length s = takenBytes s f [] f.length := by
  have h0 := takenBytes_zero s f [] (by simp [hq])
  have := receiveMany_takenBytes s f [] hp f.length 0 (by omega) (by omega)
  rw [h0] at this
  simpa using this

/-- The cells at the verdict are the bytes `old` taken before and the bytes `f` taken since. -/
theorem memRange_takenFrame (s : State) (old f rest : List Byte) (hw : Memory.wf cfg.rxBufCells s.rxBuf = true)
    (hr : memRange s.rxBuf 0 s.rxIdx.toNat = some old) (hf : s.rxIdx.toNat + f.length ≤ 261) :
    memRange (takenFrame s f rest).rxBuf 0 (s.rxIdx.toNat + f.length) = some (old ++ f) :=
  memRange_memWriteList cfg.rxBufCells s.rxBuf s.rxIdx.toNat old f hw hr hf

theorem rxCell_takenFrame (s : State) (old f rest : List Byte) (hw : Memory.wf cfg.rxBufCells s.rxBuf = true)
    (hr : memRange s.rxBuf 0 s.rxIdx.toNat = some old) (hf : s.rxIdx.toNat + f.length ≤ 261) (i : Nat)
    (hi : i < s.rxIdx.toNat + f.length) : rxCell (takenFrame s f rest) i = (old ++ f).getD i 0 := by
  have h := memRange_get _ _ _ _ (memRange_takenFrame s old f rest hw hr hf) i hi
  rw [Nat.zero_add] at h
  have hl := memRange_length _ _ _ _ hr
  rw [rxCell, h, List.getElem?_eq_getElem (by rw [List.length_append]; omega)]
  simp [List.getD, List.getElem?_eq_getElem (show i < (old ++ f).length by rw [List.length_append]; omega)]

/-- The machine's checks at the verdict are the four predicates of R151 on the bytes taken. -/
theorem checksAtVerdict_takenFrame (s : State) (old f rest : List Byte) (hw : Memory.wf cfg.rxBufCells s.rxBuf = true)
    (hr : memRange s.rxBuf 0 s.rxIdx.toNat = some old) (hs : s.rxSum = sum8 old)
    (hn : s.rxNeed.toNat = s.rxIdx.toNat + f.length) (hf : s.rxIdx.toNat + f.length ≤ 261)
    (h6 : 6 ≤ s.rxIdx.toNat + f.length) (hpos : 0 < f.length) :
    checksAtVerdict (takenFrame s f rest) = checksOf (old ++ f) s.expCmd s.expLen := by
  have hc := rxCell_takenFrame s old f rest hw hr hf
  have hl := memRange_length _ _ _ _ hr
  have hneed : (takenFrame s f rest).rxNeed = s.rxNeed := rfl
  have hlen : (old ++ f).length - 1 = s.rxIdx.toNat + f.length - 1 := by rw [List.length_append, hl]
  have htake : (old ++ f).take (s.rxIdx.toNat + f.length - 1) = old ++ f.take (f.length - 1) := by
    rw [List.take_append, hl, List.take_of_length_le (by omega)]
    congr 2
    omega
  have hsum : sum8 ((old ++ f).take (s.rxIdx.toNat + f.length - 1)) = s.rxSum + sum8 (f.take (f.length - 1)) := by
    rw [htake, sum8_append, hs]
  simp only [checksAtVerdict, checksOf, hdrOk, cmdOk, lenOk, sumOk, hneed, hn, hlen, hsum]
  rw [hc 0 (by omega), hc 1 (by omega), hc 3 (by omega), hc 4 (by omega), hc (s.rxIdx.toNat + f.length - 1) (by omega)]
  rfl

/-- The verdict is the outcome of `parse_response` on the bytes taken, with the status test after it (R158). -/
theorem verdict_takenFrame (s : State) (old f rest : List Byte) (hw : Memory.wf cfg.rxBufCells s.rxBuf = true)
    (hr : memRange s.rxBuf 0 s.rxIdx.toNat = some old) (hs : s.rxSum = sum8 old)
    (hn : s.rxNeed.toNat = s.rxIdx.toNat + f.length) (he : s.rxNeed.toNat = s.expLen.toNat + 6) (hpos : 0 < f.length) :
    verdict (takenFrame s f rest) =
      match parseResponse (old ++ f) s.expCmd s.expLen with
      | some (.protocolError e) => raise e 0 { takenFrame s f rest with checks := checksOf (old ++ f) s.expCmd s.expLen }
      | some (.ok _) =>
        if s.opLatch.chkStatus = true ∧ (old ++ f).getD 5 0 ≠ 0x00 then
          raise .rejected ((old ++ f).getD 5 0)
            { takenFrame s f rest with checks := checksOf (old ++ f) s.expCmd s.expLen }
        else finishOk { takenFrame s f rest with checks := checksOf (old ++ f) s.expCmd s.expLen }
      | none => takenFrame s f rest := by
  have hlt := s.expLen.isLt
  have hl := memRange_length _ _ _ _ hr
  have hc := checksAtVerdict_takenFrame s old f rest hw hr hs hn (by omega) (by omega) hpos
  have hdom : (old ++ f).length = s.expLen.toNat + cfg.overhead := by
    rw [List.length_append, hl, ← hn]
    exact he
  rw [parseResponse, if_pos hdom]
  simp only [verdict, hc]
  cases hff : (checksOf (old ++ f) s.expCmd s.expLen).firstFailure with
  | some e => rfl
  | none =>
    rw [rxCell_takenFrame s old f rest hw hr (by omega) 5 (by omega)]
    rfl

end Sys2Proof.Machine
end

