-- ==== Sys2Proof/Laws/Transmit.lean ====
section
/-! SUPPORT. What the transmit engine does: each step sends the next byte of the frame in the operand registers, and a whole
frame's worth of steps sends the frame and ends it (spec/40_frame_transmit.md R133, R134, R136). -/

namespace Sys2Proof.Machine

/-- R134 where a response is awaited: the flush, and the receive phase begins. -/
theorem endFrame_await (s : State) (h : s.opLatch.await = true) :
    endFrame s = { s with
      link := s.link ++ [.txFlush]
      rxNeed := s.expLen.setWidth 9 + 6
      rxIdx := 0
      rxSum := 0
      phase := .rx } := by
  rw [endFrame, flushTx_opLatch, if_pos h]
  rfl

/-- R134 where nothing is awaited: the flush, and the operation ends. -/
theorem endFrame_done (s : State) (h : s.opLatch.await = false) :
    endFrame s = { s with
      link := s.link ++ [.txFlush]
      result := .ok
      phase := .done } := by
  rw [endFrame, flushTx_opLatch, if_neg (by simp [h])]
  rfl

/-- R133 before the checksum: the byte is sent, added to `TX_SUM`, and `TX_IDX` advances. -/
theorem sendByte_inside (b : Byte) (s : State) (h : s.txIdx.toNat < s.txLen.toNat + 5) :
    sendByte b s = { s with
      link := s.link ++ [.txByte b]
      txSum := s.txSum + b
      txIdx := s.txIdx + 1 } := by
  have hne : s.txIdx.toNat ≠ s.txLen.toNat + 5 := by omega
  simp [sendByte, h, hne, emit]

/-- R133, R134 at the checksum: it is sent, not added, and the frame ends. -/
theorem sendByte_checksum (b : Byte) (s : State) (h : s.txIdx.toNat = s.txLen.toNat + 5) :
    sendByte b s = endFrame { s with
      link := s.link ++ [.txByte b]
      txIdx := s.txIdx + 1 } := by
  simp [sendByte, h, emit]

/-- Everything a transmit step that answers a state can do: nothing outside phase `TX`; else it sends the byte at `TX_IDX`,
within the frame, or at its end, where the operation ends or its response is awaited. -/
theorem transmitStep_cases (s t : State) (h : transmitStep s = .next t) :
    (s.phase ≠ .tx ∧ t = s) ∨
    (s.phase = .tx ∧ ∃ b, frameByte s s.txIdx.toNat = some b ∧
      ((s.txIdx.toNat < s.txLen.toNat + 5 ∧
          t = { s with link := s.link ++ [.txByte b], txSum := s.txSum + b, txIdx := s.txIdx + 1 }) ∨
        (s.txIdx.toNat = s.txLen.toNat + 5 ∧ s.opLatch.await = false ∧
          t = { s with
            link := s.link ++ [.txByte b] ++ [.txFlush], txIdx := s.txIdx + 1, result := .ok, phase := .done }) ∨
        (s.txIdx.toNat = s.txLen.toNat + 5 ∧ s.opLatch.await = true ∧
          t = { s with
            link := s.link ++ [.txByte b] ++ [.txFlush]
            txIdx := s.txIdx + 1
            rxNeed := s.expLen.setWidth 9 + 6
            rxIdx := 0
            rxSum := 0
            phase := .rx }))) := by
  unfold transmitStep at h
  split at h
  · rename_i hp
    right
    refine ⟨hp, ?_⟩
    split at h
    · cases h
    · split at h
      · rename_i hi b hb
        refine ⟨b, hb, ?_⟩
        have ht := Host.Outcome.next.inj h
        by_cases hlt : s.txIdx.toNat < s.txLen.toNat + 5
        · left
          exact ⟨hlt, by rw [← ht, sendByte_inside b s hlt]⟩
        · right
          have he : s.txIdx.toNat = s.txLen.toNat + 5 := by omega
          rw [sendByte_checksum b s he] at ht
          cases ha : s.opLatch.await with
          | false =>
            left
            exact ⟨he, rfl, by rw [← ht]; exact endFrame_done { s with link := _, txIdx := _ } ha⟩
          | true =>
            right
            exact ⟨he, rfl, by rw [← ht]; exact endFrame_await { s with link := _, txIdx := _ } ha⟩
      · cases h
  · left
    exact ⟨‹_›, (Host.Outcome.next.inj h).symm⟩

/-- What is known of the frame in the operand registers. -/
theorem operandFrame_some (s : State) (f : List Byte) (h : operandFrame s = some f) :
    ∃ p, operandPayload s = some p ∧ p.length = s.txLen.toNat ∧
      f = frameHead s.txAddr s.txCmd p ++ [sum8 (frameHead s.txAddr s.txCmd p)] := by
  unfold operandFrame at h
  split at h
  · rename_i p hp
    have hl := memRange_length _ _ _ _ hp
    rw [buildFrame_eq _ _ _ (by have := s.txLen.isLt; omega)] at h
    exact ⟨p, hp, hl, (Option.some.inj h).symm⟩
  · exact absurd h (by simp)

theorem operandFrame_length (s : State) (f : List Byte) (h : operandFrame s = some f) :
    f.length = s.txLen.toNat + 6 := by
  obtain ⟨p, -, hl, rfl⟩ := operandFrame_some s f h
  simp [frameHead_length, hl]

/-- The state after `k` bytes of the frame `f` have been sent, `s` being the state at its start. -/
def sentBytes (s : State) (f : List Byte) (k : Nat) : State :=
  { s with
    link := s.link ++ (f.take k).map .txByte
    txIdx := BitVec.ofNat 9 k
    txSum := sum8 (f.take k) }

/-- The state once the frame `f` has been sent in full and ended (R134). -/
def sentFrame (s : State) (f : List Byte) : State :=
  endFrame { s with
    link := s.link ++ f.map .txByte
    txIdx := BitVec.ofNat 9 f.length
    txSum := sum8 (f.take (f.length - 1)) }

theorem frameByte_sentBytes (s : State) (f : List Byte) (h : operandFrame s = some f) (k : Nat)
    (hk : k < s.txLen.toNat + 6) : frameByte (sentBytes s f k) k = f[k]? := by
  obtain ⟨p, hp, hl, rfl⟩ := operandFrame_some s f h
  have hlen : BitVec.ofNat 8 p.length = s.txLen := by rw [hl]; simp
  match k, hk with
  | 0, _ => rfl
  | 1, _ => rfl
  | 2, _ => rfl
  | 3, _ => rfl
  | 4, _ => simp [frameByte, sentBytes, frameHead, hlen]
  | k + 5, hk =>
    have hget : (frameHead s.txAddr s.txCmd p ++ [sum8 (frameHead s.txAddr s.txCmd p)])[k + 5]?
        = (p ++ [sum8 (frameHead s.txAddr s.txCmd p)])[k]? := by
      simp [frameHead]
    have hL : (sentBytes s (frameHead s.txAddr s.txCmd p ++ [sum8 (frameHead s.txAddr s.txCmd p)]) (k + 5)).txLen
        = s.txLen := rfl
    rw [hget, frameByte, hL, if_neg (by omega), if_neg (by omega), if_neg (by omega), if_neg (by omega),
      if_neg (by omega)]
    by_cases hlt : k < s.txLen.toNat
    · rw [if_pos (by omega), List.getElem?_append_left (by omega)]
      have := memRange_get _ _ _ _ hp k hlt
      rw [Nat.zero_add] at this
      exact this
    · have hk' : k = p.length := by omega
      rw [if_neg (by omega), if_pos (by omega), List.getElem?_append_right (by omega), hk']
      have htake : (frameHead s.txAddr s.txCmd p ++ [sum8 (frameHead s.txAddr s.txCmd p)]).take (p.length + 5)
          = frameHead s.txAddr s.txCmd p := by
        rw [← frameHead_length s.txAddr s.txCmd p, List.take_left]
      simp [sentBytes, htake]

theorem txIdx_sentBytes (s : State) (f : List Byte) (k : Nat) (hk : k < 512) :
    (sentBytes s f k).txIdx.toNat = k := by
  simp [sentBytes, Nat.mod_eq_of_lt hk]

/-- One transmit step inside a frame. -/
theorem transmitStep_sentBytes (s : State) (f : List Byte) (hp : s.phase = .tx) (h : operandFrame s = some f) (k : Nat)
    (hk : k < s.txLen.toNat + 5) : transmitStep (sentBytes s f k) = .next (sentBytes s f (k + 1)) := by
  have hlt := s.txLen.isLt
  have hidx := txIdx_sentBytes s f k (by omega)
  have hfl := operandFrame_length s f h
  have hb := frameByte_sentBytes s f h k (by omega)
  have hkf : k < f.length := by omega
  rw [List.getElem?_eq_getElem hkf] at hb
  have hphase : (sentBytes s f k).phase = .tx := hp
  have hL : (sentBytes s f k).txLen = s.txLen := rfl
  unfold transmitStep
  rw [if_pos hphase, hidx, hL, if_neg (by omega), hb]
  show Host.Outcome.next (sendByte f[k] (sentBytes s f k)) = _
  rw [sendByte_inside _ _ (by rw [hidx, hL]; exact hk)]
  have htk : f.take (k + 1) = f.take k ++ [f[k]] := (List.take_concat_get' f k hkf).symm
  have hcnt : BitVec.ofNat 9 k + 1 = BitVec.ofNat 9 (k + 1) := by
    apply BitVec.eq_of_toNat_eq
    simp
  simp only [sentBytes, htk, sum8_append_one, List.map_append, List.append_assoc, hcnt, List.map_cons, List.map_nil]

/-- The last transmit step of a frame. -/
theorem transmitStep_last (s : State) (f : List Byte) (hp : s.phase = .tx) (h : operandFrame s = some f) :
    transmitStep (sentBytes s f (s.txLen.toNat + 5)) = .next (sentFrame s f) := by
  have hlt := s.txLen.isLt
  have hidx := txIdx_sentBytes s f (s.txLen.toNat + 5) (by omega)
  have hfl := operandFrame_length s f h
  have hb := frameByte_sentBytes s f h (s.txLen.toNat + 5) (by omega)
  have hkf : s.txLen.toNat + 5 < f.length := by omega
  rw [List.getElem?_eq_getElem hkf] at hb
  have hphase : (sentBytes s f (s.txLen.toNat + 5)).phase = .tx := hp
  have hL : (sentBytes s f (s.txLen.toNat + 5)).txLen = s.txLen := rfl
  unfold transmitStep
  rw [if_pos hphase, hidx, hL, if_neg (by omega), hb]
  show Host.Outcome.next (sendByte f[s.txLen.toNat + 5] (sentBytes s f (s.txLen.toNat + 5))) = _
  rw [sendByte_checksum _ _ (by rw [hidx, hL])]
  have e1 : f.length - 1 = s.txLen.toNat + 5 := by omega
  have htk : f = f.take (s.txLen.toNat + 5) ++ [f[s.txLen.toNat + 5]] := by
    rw [List.take_concat_get' f _ hkf, List.take_of_length_le (by omega)]
  have hmap : f.map LinkEvent.txByte
      = (f.take (s.txLen.toNat + 5)).map LinkEvent.txByte ++ [LinkEvent.txByte f[s.txLen.toNat + 5]] := by
    conv_lhs => rw [htk]
    rw [List.map_append, List.map_cons, List.map_nil]
  have hcnt : BitVec.ofNat 9 (s.txLen.toNat + 5) + 1 = BitVec.ofNat 9 f.length := by
    rw [hfl]
    apply BitVec.eq_of_toNat_eq
    simp
  simp only [sentFrame, e1, hmap, ← hcnt, ← List.append_assoc]
  rfl

theorem transmitMany_sentBytes (s : State) (f : List Byte) (hp : s.phase = .tx) (h : operandFrame s = some f) (n k : Nat)
    (hk : k + n = s.txLen.toNat + 6) (hn : 0 < n) : transmitMany n (sentBytes s f k) = .next (sentFrame s f) := by
  induction n generalizing k with
  | zero => omega
  | succ n ih =>
    cases n with
    | zero =>
      have : k = s.txLen.toNat + 5 := by omega
      subst this
      simp only [transmitMany, transmitStep_last s f hp h]
    | succ n =>
      rw [transmitMany, transmitStep_sentBytes s f hp h k (by omega)]
      exact ih (k + 1) (by omega) (by omega)

theorem sentBytes_zero (s : State) (f : List Byte) (hi : s.txIdx = 0) (hs : s.txSum = 0) : sentBytes s f 0 = s := by
  have : (0 : Byte) = sum8 [] := rfl
  cases s
  simp_all [sentBytes]

/-- R136 as one equation: from the start of a frame whose payload is written, the transport accepting `TX_LEN + 6` bytes
sends exactly the frame `build_frame` makes of the operands and ends it. -/
theorem transmitMany_frame (s : State) (f : List Byte) (hp : s.phase = .tx) (hi : s.txIdx = 0) (hs : s.txSum = 0)
    (h : operandFrame s = some f) : transmitMany f.length s = .next (sentFrame s f) := by
  have hfl := operandFrame_length s f h
  have := transmitMany_sentBytes s f hp h f.length 0 (by omega) (by omega)
  rwa [sentBytes_zero s f hi hs] at this

end Sys2Proof.Machine
end

