-- ==== Sys2Proof/Laws/Inputs.lean ====
section
/-! SUPPORT. The engines do not look at the inputs to come: running them commutes with replacing that list. -/

namespace Sys2Proof.Machine

/-- `s` with other inputs to come. -/
def withInputs (l : List Input) (s : State) : State := { s with inputs := l }

/-- `withInputs` under an answer. -/
def mapNext (g : State → State) : Answer → Answer
  | .next t => .next (g t)
  | .fault f => .fault f
  | .refused r => .refused r

theorem withInputs_self (s : State) : withInputs s.inputs s = s := rfl

theorem withInputs_withInputs (l k : List Input) (s : State) : withInputs l (withInputs k s) = withInputs l s := rfl

theorem endFrame_withInputs (l : List Input) (s : State) : endFrame (withInputs l s) = withInputs l (endFrame s) := by
  cases h : s.opLatch.await with
  | true => rw [endFrame_await s h, endFrame_await (withInputs l s) h]; rfl
  | false => rw [endFrame_done s h, endFrame_done (withInputs l s) h]; rfl

theorem sendByte_withInputs (b : Byte) (l : List Input) (s : State) :
    sendByte b (withInputs l s) = withInputs l (sendByte b s) := by
  by_cases h : s.txIdx.toNat = s.txLen.toNat + 5
  · rw [sendByte_checksum b s h, sendByte_checksum b (withInputs l s) h]
    exact endFrame_withInputs l { s with link := s.link ++ [.txByte b], txIdx := s.txIdx + 1 }
  · simp only [sendByte]
    rw [if_neg h, if_neg (show ¬(withInputs l s).txIdx.toNat = (withInputs l s).txLen.toNat + 5 from h)]
    rfl

theorem transmitStep_withInputs (l : List Input) (s : State) :
    transmitStep (withInputs l s) = mapNext (withInputs l) (transmitStep s) := by
  have hfb : frameByte (withInputs l s) (withInputs l s).txIdx.toNat = frameByte s s.txIdx.toNat := rfl
  by_cases hp : s.phase = .tx
  · by_cases hi : s.txLen.toNat + 5 < s.txIdx.toNat
    · simp [transmitStep, hp, hi, withInputs, mapNext]
    · rw [transmitStep, transmitStep, if_pos hp, if_pos (show (withInputs l s).phase = .tx from hp), if_neg hi,
        if_neg (show ¬(withInputs l s).txLen.toNat + 5 < (withInputs l s).txIdx.toNat from hi), hfb]
      cases frameByte s s.txIdx.toNat with
      | none => rfl
      | some b => simp only [mapNext, sendByte_withInputs]
  · rw [transmitStep, transmitStep, if_neg hp, if_neg (show ¬(withInputs l s).phase = .tx from hp)]
    rfl

theorem transmitMany_withInputs (l : List Input) (n : Nat) (s : State) :
    transmitMany n (withInputs l s) = mapNext (withInputs l) (transmitMany n s) := by
  induction n generalizing s with
  | zero => rfl
  | succ n ih =>
    rw [transmitMany, transmitMany, transmitStep_withInputs]
    cases transmitStep s with
    | next t => exact ih t
    | fault f => rfl
    | refused r => rfl

theorem verdict_withInputs (l : List Input) (s : State) : verdict (withInputs l s) = withInputs l (verdict s) := by
  have hc : checksAtVerdict (withInputs l s) = checksAtVerdict s := rfl
  have hr : ∀ i, rxCell (withInputs l s) i = rxCell s i := fun _ => rfl
  simp only [verdict, hc, hr]
  cases (checksAtVerdict s).firstFailure with
  | some e => rfl
  | none =>
    by_cases h : s.opLatch.chkStatus = true ∧ rxCell s 5 ≠ cfg.statusOk
    · rw [if_pos h, if_pos (show (withInputs l s).opLatch.chkStatus = true ∧ rxCell s 5 ≠ cfg.statusOk from h)]
      rfl
    · rw [if_neg h, if_neg (show ¬((withInputs l s).opLatch.chkStatus = true ∧ rxCell s 5 ≠ cfg.statusOk) from h)]
      rfl

theorem receiveStep_withInputs (l : List Input) (s : State) :
    receiveStep (withInputs l s) = withInputs l (receiveStep s) := by
  have hr : receiving (withInputs l s) = receiving s := rfl
  have hq : (withInputs l s).rxQueue = s.rxQueue := rfl
  rw [receiveStep, receiveStep, hr, hq]
  cases receiving s with
  | false => rfl
  | true =>
    cases s.rxQueue with
    | nil => rfl
    | cons b rest =>
      by_cases h : s.rxIdx.toNat + 1 = s.rxNeed.toNat
      · simp only [if_true, takeByte]
        rw [if_pos h, if_pos (show (withInputs l s).rxIdx.toNat + 1 = (withInputs l s).rxNeed.toNat from h)]
        exact verdict_withInputs l { s with
          rxQueue := rest
          rxTaken := s.rxTaken + 1
          rxBuf := memWrite cfg.rxBufCells s.rxBuf s.rxIdx.toNat b
          rxSum := if s.rxIdx.toNat + 1 < s.rxNeed.toNat then s.rxSum + b else s.rxSum
          rxIdx := s.rxIdx + 1 }
      · simp only [if_true, takeByte]
        rw [if_neg h, if_neg (show ¬(withInputs l s).rxIdx.toNat + 1 = (withInputs l s).rxNeed.toNat from h)]
        rfl

theorem receiveMany_withInputs (l : List Input) (n : Nat) (s : State) :
    receiveMany n (withInputs l s) = withInputs l (receiveMany n s) := by
  induction n generalizing s with
  | zero => rfl
  | succ n ih => rw [receiveMany, receiveMany, receiveStep_withInputs, ih]

end Sys2Proof.Machine
end

