-- ==== Sys2Proof/Laws/Step.lean ====
section
/-! SUPPORT. What a step does: it runs the decoded instruction, or the rule of its next input. -/

namespace Sys2Proof.Machine

theorem step_of_fetch (s : State) (bytes : List Byte) (i : Instr) (hf : fetch s = some bytes)
    (hd : decode bytes = .ok i) : step s = exec i (dropInput s) := by
  simp [step, hf, hd]

theorem step_of_undecodable (s : State) (bytes : List Byte) (e : DecodeError) (hf : fetch s = some bytes)
    (hd : decode bytes = .error e) : step s = .next (receiveFrame bytes (dropInput s)) := by
  simp [step, hf, hd]

/-- Bytes on the link that are no instruction arrive as they are (log entry 7). -/
theorem step_of_no_frame (s : State) (bytes : List Byte) (rest : List Input) (h : s.inputs = .link bytes :: rest)
    (hb : bytes.length < 6 ∨ ∃ e, decode bytes = .error e) : step s = .next (receiveFrame bytes (dropInput s)) := by
  by_cases hl : 6 ≤ bytes.length
  · have hf : fetch s = some bytes := by
      simp only [fetch, h]
      exact if_pos hl
    rcases hb with hb | ⟨e, he⟩
    · omega
    · exact step_of_undecodable s bytes e hf he
  · have hf : fetch s = none := by
      simp only [fetch, h]
      exact if_neg hl
    simp only [step, hf, idleStep, h]
    rfl

theorem step_of_no_input (s : State) (h : s.inputs = []) : step s = .next s := by
  simp [step, fetch, idleStep, h]

theorem decode_opWordBytes (op : BitVec 4) (c : Byte) : decode (opWordBytes op c) = .ok (decodeOp op c) := by
  have h : (op.setWidth 8).toNat < 16 := by
    have := op.isLt
    simp only [BitVec.toNat_setWidth]
    omega
  have h2 : (op.setWidth 8).setWidth 4 = op := by
    apply BitVec.eq_of_toNat_eq
    have := op.isLt
    simp only [BitVec.toNat_setWidth]
    omega
  simp only [opWordBytes, decode]
  rw [if_pos h, h2]

/-- A host write of `OP` issues the operation of its code (R47, R110). -/
theorem step_of_issue (s : State) (idx : Nat) (v : Half) (rest : List Input) (h : s.inputs = .wr 0x00 idx v :: rest) :
    step s = exec (decodeOp (v.setWidth 4) s.txCmd) (dropInput s) := by
  have hf : fetch s = some (opWordBytes (v.setWidth 4) s.txCmd) := by simp [fetch, h]
  exact step_of_fetch s _ _ hf (decode_opWordBytes _ _)

/-- An input that is neither a write of `OP` nor a frame on the link. -/
theorem step_of_event (s : State) (e : Input) (rest : List Input) (h : s.inputs = e :: rest)
    (hw : ∀ idx v, e ≠ .wr 0x00 idx v) (hl : ∀ bytes, e ≠ .link bytes) : step s = eventStep e (dropInput s) := by
  have hf : fetch s = none := by
    cases e with
    | wr no idx v =>
      have hno : no ≠ 0x00 := fun hn => hw idx v (by rw [hn])
      rw [fetch, h]
      exact if_neg hno
    | link bytes => exact absurd rfl (hl bytes)
    | _ => simp [fetch, h]
  simp [step, hf, idleStep, h]

/-- `k` inputs, and then what comes after them. -/
theorem run_add (m n : Nat) (s : State) :
    Host.Core.run core (m + n) s
      = match Host.Core.run core m s with
        | .next t => Host.Core.run core n t
        | .fault f => .fault f
        | .refused r => .refused r := by
  induction m generalizing s with
  | zero => rw [Nat.zero_add]; rfl
  | succ m ih =>
    rw [Nat.succ_add]
    simp only [Host.Core.run]
    cases core.step s with
    | next t => exact ih t
    | fault f => rfl
    | refused r => rfl

theorem run_of_step (n : Nat) (s t : State) (h : step s = .next t) :
    Host.Core.run core (n + 1) s = Host.Core.run core n t := by
  have h' : core.step s = .next t := h
  simp only [Host.Core.run, h']

/-- `n` readiness events in a row are `n` transmit steps. -/
theorem run_txReady (n : Nat) (rest : List Input) (s : State) (h : s.inputs = List.replicate n .txReady ++ rest) :
    Host.Core.run core n s = transmitMany n (withInputs rest s) := by
  induction n generalizing s with
  | zero =>
    have : withInputs rest s = s := by
      have hr : rest = s.inputs := by simpa using h.symm
      rw [hr, withInputs_self]
    rw [this]
    rfl
  | succ n ih =>
    rw [List.replicate_succ, List.cons_append] at h
    have hd : dropInput s = withInputs (List.replicate n .txReady ++ rest) s := by
      simp [dropInput, withInputs, h]
    have hs : step s = mapNext (withInputs (List.replicate n .txReady ++ rest)) (transmitStep s) := by
      rw [step_of_event s .txReady _ h (by simp) (by simp), hd]
      exact transmitStep_withInputs _ _
    have hs' : core.step s = mapNext (withInputs (List.replicate n .txReady ++ rest)) (transmitStep s) := hs
    rw [transmitMany, transmitStep_withInputs]
    simp only [Host.Core.run, hs']
    cases transmitStep s with
    | next t => exact ih (withInputs _ t) rfl
    | fault f => rfl
    | refused r => rfl

/-- `n` taken bytes in a row are `n` receive steps. -/
theorem run_rxByte (n : Nat) (rest : List Input) (s : State) (h : s.inputs = List.replicate n .rxByte ++ rest) :
    Host.Core.run core n s = .next (receiveMany n (withInputs rest s)) := by
  induction n generalizing s with
  | zero =>
    have : withInputs rest s = s := by
      have hr : rest = s.inputs := by simpa using h.symm
      rw [hr, withInputs_self]
    rw [this]
    rfl
  | succ n ih =>
    rw [List.replicate_succ, List.cons_append] at h
    have hd : dropInput s = withInputs (List.replicate n .rxByte ++ rest) s := by
      simp [dropInput, withInputs, h]
    have hs : step s = .next (withInputs (List.replicate n .rxByte ++ rest) (receiveStep s)) := by
      rw [step_of_event s .rxByte _ h (by simp) (by simp), hd]
      show Host.Outcome.next (receiveStep _) = _
      rw [receiveStep_withInputs]
    rw [run_of_step n s _ hs, ih _ rfl, receiveMany, receiveStep_withInputs]
    rfl

end Sys2Proof.Machine
end

