-- ==== Sys2Proof/Laws/Exec.lean ====
section
/-! SUPPORT. The four kinds of instruction and what each does, and how a property of states is kept: by an instruction, and by
a step, once the shared operations keep it. -/

namespace Sys2Proof.Machine

/-- Every instruction is a frame to the device, a frame from it, an ordinary operation, or `SOFT_RESET`. -/
theorem instr_cases (i : Instr) :
    isRequestFrame i = true ∨ isDeviceFrame i = true ∨ i ∈ ordinaryOps ∨ i = .softReset := by
  cases i <;> simp [isRequestFrame, isDeviceFrame, ordinaryOps]

theorem exec_of_isRequestFrame (i : Instr) (s : State) (h : isRequestFrame i = true) :
    exec i s = frameOut (encode i) s := by
  cases i <;> simp [isRequestFrame] at h <;> try rfl
  simp [exec, execFrame, isResponse, h]

theorem exec_of_isDeviceFrame (i : Instr) (s : State) (h : isDeviceFrame i = true) :
    exec i s = .next (receiveFrame (encode i) s) := by
  cases i <;> simp [isDeviceFrame] at h <;> try rfl
  simp [exec, execFrame, isResponse, h]

/-- What an ordinary operation does once accepted. -/
def opBody : Instr → State → State
  | .send, s => beginTransmit { s with opLatch := ⟨false, false⟩ }
  | .recv, s => beginReceive { s with opLatch := ⟨false, false⟩ }
  | .xfer, s => beginTransmit (flushRx { s with opLatch := ⟨true, false⟩, expCmd := s.txCmd })
  | .dispatchKb, s => dispatchArm entryKb s
  | .dispatchMs, s => dispatchArm entryMs s
  | .dispatchGet, s => dispatchArm entryGet s
  | .dispatchSet, s => dispatchArm entrySet s
  | .fmtKb, s =>
    finishOk { s with
      txCmd := cfg.cmdKb, txLen := cfg.kbLen, txBuf := memWriteList cfg.txBufCells s.txBuf 0 s.kbReport }
  | .fmtMsRel, s =>
    finishOk { s with
      txCmd := cfg.cmdMs, txLen := cfg.msLen, txBuf := memWriteList cfg.txBufCells s.txBuf 0 s.msReport }
  | .clear, s => { s with phase := .idle }
  | _, s => raise .badop 0 s

theorem exec_of_mem_ordinaryOps (i : Instr) (s : State) (h : i ∈ ordinaryOps) :
    exec i s = .next (accept (opBody i) s) := by
  fin_cases h <;> rfl

theorem busy_of_ready (s : State) (h : Ready s) : s.phase.busy = false := by
  rcases h with h | h <;> rw [h] <;> rfl

theorem ready_of_not_busy (s : State) (h : s.phase.busy = false) : Ready s := by
  revert h
  unfold Ready
  cases s.phase <;> simp [Phase.busy]

/-- R111 (c). -/
theorem accept_of_ready (body : State → State) (s : State) (h : Ready s) : accept body s = body (clearResults s) := by
  rw [accept, busy_of_ready s h]
  rfl

/-- R111 (b). -/
theorem accept_of_busy (body : State → State) (s : State) (h : s.phase.busy = true) : accept body s = s := by
  rw [accept, if_pos h]

/-- Everything an arm of `DISPATCH` can do once accepted. -/
theorem dispatchArm_cases (e : DispatchEntry) (s : State) :
    (s.txLen ≠ e.reqLen ∧ dispatchArm e s = raise .badop 0 s) ∨
    (s.txLen = e.reqLen ∧ e.await = false ∧
      dispatchArm e s
        = { s with opLatch := ⟨false, e.chkStatus⟩, txIdx := 0, txSum := 0, phase := .tx }) ∨
    (s.txLen = e.reqLen ∧ e.await = true ∧
      dispatchArm e s
        = { s with
          opLatch := ⟨true, e.chkStatus⟩
          expCmd := s.txCmd
          expLen := e.rspLen.getD s.expLen
          link := s.link ++ [.rxFlush]
          rxQueue := []
          txIdx := 0
          txSum := 0
          phase := .tx }) := by
  by_cases hl : s.txLen = e.reqLen
  · right
    cases ha : e.await with
    | false =>
      left
      refine ⟨hl, rfl, ?_⟩
      rw [dispatchArm, if_pos hl, ha]
      rfl
    | true =>
      right
      refine ⟨hl, rfl, ?_⟩
      rw [dispatchArm, if_pos hl, ha]
      rfl
  · left
    exact ⟨hl, if_neg hl⟩

/-- Everything a step on bytes on the link can do: a request frame passes, or bytes arrive and are received. -/
theorem step_of_link (s : State) (bytes : List Byte) (rest : List Input) (h : s.inputs = .link bytes :: rest) :
    (∃ b, step s = frameOut b (dropInput s)) ∨ ∃ b, step s = .next (receiveFrame b (dropInput s)) := by
  by_cases hb : bytes.length < 6 ∨ ∃ e, decode bytes = .error e
  · exact .inr ⟨bytes, step_of_no_frame s bytes rest h hb⟩
  · have hl : 6 ≤ bytes.length := Nat.le_of_not_lt fun hl => hb (.inl hl)
    have hf : fetch s = some bytes := by
      simp only [fetch, h]
      exact if_pos hl
    cases hd : decode bytes with
    | error e => exact absurd (.inr ⟨e, hd⟩) hb
    | ok i =>
      rw [step_of_fetch s bytes i hf hd]
      rcases decode_isFrame bytes i hl hd with hi | hi
      · exact .inl ⟨_, exec_of_isRequestFrame i _ hi⟩
      · exact .inr ⟨_, exec_of_isDeviceFrame i _ hi⟩

/-- A property of states that every shared operation an instruction is made of keeps. -/
structure Kept (P : State → Prop) : Prop where
  accepted : ∀ s i, P s → i ∈ ordinaryOps → Ready s → P (opBody i (clearResults s))
  transmit : ∀ s t, P s → transmitStep s = .next t → P t
  receive : ∀ s, P s → P (receiveStep s)
  arrive : ∀ s bytes, P s → P (arriveBytes bytes s)
  reset : ∀ s, P s → P (resetCodec s)

theorem transmitMany_keeps {P : State → Prop} (htx : ∀ s t, P s → transmitStep s = .next t → P t) (n : Nat)
    (s t : State) (hs : P s) (h : transmitMany n s = .next t) : P t := by
  induction n generalizing s with
  | zero =>
    cases h
    exact hs
  | succ n ih =>
    rw [transmitMany] at h
    split at h
    · exact ih _ (htx _ _ hs ‹_›) h
    · cases h
    · cases h

theorem receiveMany_keeps {P : State → Prop} (hrx : ∀ s, P s → P (receiveStep s)) (n : Nat) (s : State) (hs : P s) :
    P (receiveMany n s) := by
  induction n generalizing s with
  | zero => exact hs
  | succ n ih => exact ih _ (hrx _ hs)

/-- All a request frame can do: nothing, be refused for an unwritten payload cell, or be handed over as the frame in the
operand registers. -/
theorem frameOut_cases (bytes : List Byte) (s : State) :
    frameOut bytes s = .next s ∨
    (frameOut bytes s = .refused .unwrittenTxCell ∧ s.phase = .tx ∧ operandFrame s = none ∧
      bytes.take 5 = frameStart s) ∨
    (frameOut bytes s = transmitMany bytes.length s ∧ s.phase = .tx ∧ s.txIdx = 0 ∧ s.txSum = 0 ∧
      operandFrame s = some bytes) := by
  by_cases hc : s.phase = .tx ∧ s.txIdx = 0 ∧ s.txSum = 0
  · rcases hf : operandFrame s with _ | f
    · by_cases hb : bytes.take 5 = frameStart s
      · exact .inr (.inl ⟨by simp [frameOut, hc, hf, hb], hc.1, rfl, hb⟩)
      · exact .inl (by simp [frameOut, hf, hb])
    · by_cases hb : f = bytes
      · subst hb
        exact .inr (.inr ⟨by simp [frameOut, hc, hf], hc.1, hc.2.1, hc.2.2, rfl⟩)
      · exact .inl (by simp [frameOut, hf, hb])
  · exact .inl (by simp only [frameOut, if_neg hc])

theorem frameOut_keeps {P : State → Prop} (htx : ∀ s t, P s → transmitStep s = .next t → P t) (bytes : List Byte)
    (s t : State) (hs : P s) (h : frameOut bytes s = .next t) : P t := by
  rcases frameOut_cases bytes s with e | ⟨e, -⟩ | ⟨e, -⟩ <;> rw [e] at h
  · cases h
    exact hs
  · cases h
  · exact transmitMany_keeps htx _ _ _ hs h

theorem receiveFrame_keeps {P : State → Prop} (ha : ∀ s bytes, P s → P (arriveBytes bytes s))
    (hrx : ∀ s, P s → P (receiveStep s)) (bytes : List Byte) (s : State) (hs : P s) : P (receiveFrame bytes s) :=
  receiveMany_keeps hrx _ _ (ha _ _ hs)

/-- What the shared operations keep, every instruction keeps. -/
theorem exec_keeps {P : State → Prop} (k : Kept P) (i : Instr) (s t : State) (hs : P s) (h : exec i s = .next t) :
    P t := by
  rcases instr_cases i with hi | hi | hi | rfl
  · rw [exec_of_isRequestFrame i s hi] at h
    exact frameOut_keeps k.transmit _ _ _ hs h
  · rw [exec_of_isDeviceFrame i s hi] at h
    cases h
    exact receiveFrame_keeps k.arrive k.receive _ _ hs
  · rw [exec_of_mem_ordinaryOps i s hi] at h
    cases h
    cases hb : s.phase.busy with
    | true =>
      rw [accept_of_busy _ s hb]
      exact hs
    | false =>
      rw [accept_of_ready _ s (ready_of_not_busy s hb)]
      exact k.accepted s i hs hi (ready_of_not_busy s hb)
  · cases h
    exact k.reset _ hs

/-- A property of states that every operation a step is made of keeps. -/
structure KeptByEvents (P : State → Prop) : Prop extends Kept P where
  drop : ∀ s, P s → P (dropInput s)
  write : ∀ s no idx v, P s → Ready s → P (writeReg no idx v s)
  read : ∀ s no idx, P s → P (hostRead no idx s)
  fail : ∀ s, P s → P (txFailStep s)
  timeout : ∀ s, P s → P (timeoutStep s)
  store : ∀ s block, P s → P { s with devBlock := block }
  power : ∀ s, P s → P { s with devBaud := baudGet s.devBlock }

/-- What these operations keep, every step keeps. -/
theorem step_keeps {P : State → Prop} (k : KeptByEvents P) (s t : State) (hs : P s) (h : step s = .next t) : P t := by
  unfold step at h
  split at h
  · split at h
    · exact exec_keeps k.toKept _ _ _ (k.drop _ hs) h
    · cases h
      exact receiveFrame_keeps k.arrive k.receive _ _ (k.drop _ hs)
  · unfold idleStep at h
    split at h
    · cases h
      exact hs
    · have hd := k.drop _ hs
      rename_i e _ _
      cases e with
      | wr no idx v =>
        cases h
        cases hb : (dropInput s).phase.busy with
        | true =>
          rw [hostWrite, if_pos hb]
          exact hd
        | false =>
          rw [hostWrite, if_neg (show ¬(dropInput s).phase.busy = true by rw [hb]; exact Bool.false_ne_true)]
          exact k.write _ _ _ _ hd (ready_of_not_busy _ hb)
      | rd no idx =>
        cases h
        exact k.read _ _ _ hd
      | link bytes =>
        cases h
        exact receiveFrame_keeps k.arrive k.receive _ _ hd
      | arrive bytes =>
        cases h
        exact k.arrive _ _ hd
      | txReady => exact k.transmit _ _ hd h
      | txFail =>
        cases h
        exact k.fail _ hd
      | rxByte =>
        cases h
        exact k.receive _ hd
      | rxTimeout =>
        cases h
        exact k.timeout _ hd
      | rst =>
        cases h
        exact k.reset _ hd
      | devStore block =>
        cases h
        exact k.store _ _ hd
      | devPowerCycle =>
        cases h
        exact k.power _ hd

end Sys2Proof.Machine
end

