-- ==== Sys2Proof/Laws/PerInstr.lean ====
section
/-! SUPPORT. The size of every instruction's encoding, one lemma a constructor (spec/30_encoding.md R92, R101, R110). -/

namespace Sys2Proof.Laws.EncodedSize

/-- R92, R101: the bytes of each frame; an operation word is two bytes (log entry 6). -/
def size : Instr → Nat
  | .frame _ _ data _ => data.length + 6
  | .kbReq _ _ _ _ _ => 14
  | .msReq _ _ _ _ _ _ _ => 11
  | .getReq _ _ => 6
  | .getRsp _ _ _ => 56
  | .setReq _ _ _ => 56
  | .setRsp _ _ _ => 7
  | .send => 2
  | .recv => 2
  | .xfer => 2
  | .dispatchKb => 2
  | .dispatchMs => 2
  | .dispatchGet => 2
  | .dispatchSet => 2
  | .dispatchUnlisted => 2
  | .fmtKb => 2
  | .fmtMsRel => 2
  | .clear => 2
  | .softReset => 2
  | .reserved0 => 2
  | .reserved8 => 2
  | .reserved9 => 2
  | .reservedA => 2
  | .reservedB => 2
  | .reservedC => 2
  | .reservedD => 2
  | .reservedE => 2

/-- The encoding of a well-formed instruction has that size. -/
def Statement (i : Instr) : Prop := i.wellFormed = true → (encode i).length = size i

theorem frame (addr cmd : Byte) (data : List Byte) (chk : Byte) : Statement (.frame addr cmd data chk) := by
  intro _
  simp [encode, frameBytes, size]

theorem kbReq (addr modifiers reserved : Byte) (keys : List Byte) (chk : Byte) :
    Statement (.kbReq addr modifiers reserved keys chk) := by
  intro h
  simp only [Instr.wellFormed, beq_iff_eq] at h
  simp [encode, frameBytes, size, h]

theorem msReq (addr marker buttons dx dy wheel chk : Byte) : Statement (.msReq addr marker buttons dx dy wheel chk) :=
  fun _ => rfl

theorem getReq (addr chk : Byte) : Statement (.getReq addr chk) := fun _ => rfl

theorem getRsp (addr : Byte) (block : List Byte) (chk : Byte) : Statement (.getRsp addr block chk) := by
  intro h
  simp only [Instr.wellFormed, beq_iff_eq] at h
  simp [encode, frameBytes, size, h]

theorem setReq (addr : Byte) (block : List Byte) (chk : Byte) : Statement (.setReq addr block chk) := by
  intro h
  simp only [Instr.wellFormed, beq_iff_eq] at h
  simp [encode, frameBytes, size, h]

theorem setRsp (addr status chk : Byte) : Statement (.setRsp addr status chk) := fun _ => rfl

theorem send : Statement .send := fun _ => rfl
theorem recv : Statement .recv := fun _ => rfl
theorem xfer : Statement .xfer := fun _ => rfl
theorem dispatchKb : Statement .dispatchKb := fun _ => rfl
theorem dispatchMs : Statement .dispatchMs := fun _ => rfl
theorem dispatchGet : Statement .dispatchGet := fun _ => rfl
theorem dispatchSet : Statement .dispatchSet := fun _ => rfl
theorem dispatchUnlisted : Statement .dispatchUnlisted := fun _ => rfl
theorem fmtKb : Statement .fmtKb := fun _ => rfl
theorem fmtMsRel : Statement .fmtMsRel := fun _ => rfl
theorem clear : Statement .clear := fun _ => rfl
theorem softReset : Statement .softReset := fun _ => rfl
theorem reserved0 : Statement .reserved0 := fun _ => rfl
theorem reserved8 : Statement .reserved8 := fun _ => rfl
theorem reserved9 : Statement .reserved9 := fun _ => rfl
theorem reservedA : Statement .reservedA := fun _ => rfl
theorem reservedB : Statement .reservedB := fun _ => rfl
theorem reservedC : Statement .reservedC := fun _ => rfl
theorem reservedD : Statement .reservedD := fun _ => rfl
theorem reservedE : Statement .reservedE := fun _ => rfl

end Sys2Proof.Laws.EncodedSize
end

