-- ==== Sys2Proof/Tests/Slice0.lean ====
section
/-! SUPPORT. Tests of the checks, the decoder and one step of each instruction, with values from the spec, and a witness for
every statement that has hypotheses. -/

namespace Sys2Proof.Tests
open Sys2Proof Sys2Proof.Machine

set_option maxRecDepth 8000

/-! ### States and checks -/

/-- Whether an answer is a next state with a property. -/
def nextWith (p : State → Bool) : Answer → Bool
  | .next t => p t
  | .fault _ => false
  | .refused _ => false

/-- The reset state with inputs to come. -/
def waiting (l : List Input) : State := { State.reset with inputs := l }

/-- The transmit operands filled in, in phase `DONE`. -/
def loaded (cmd : Byte) (payload : List Byte) : State :=
  { State.reset with
    txCmd := cmd
    txLen := BitVec.ofNat 8 payload.length
    txBuf := memWriteList 255 [] 0 payload
    result := .ok
    phase := .done }

/-- The start of a transmit phase. -/
def sending (cmd : Byte) (payload : List Byte) : State := { loaded cmd payload with result := .none, phase := .tx }

/-- The start of a receive phase. -/
def receivingFor (ec el : Byte) (chk : Bool) : State :=
  { State.reset with
    expCmd := ec, expLen := el, opLatch := ⟨chk, chk⟩, rxNeed := el.setWidth 9 + 6, phase := .rx }

/-- The parameter block of the spec's programs: zeros, the baud field 9600. -/
def block9600 : List Byte := List.replicate 5 0 ++ [0x25, 0x80] ++ List.replicate 43 0

/-! ### Well-formedness: each check refuses an ill-formed term -/

theorem test_wf_frame_too_long : (Instr.frame 0 0x34 (List.replicate 256 0) 0).wellFormed = false := by decide
theorem test_wf_frame_of_specific_kind : (Instr.frame 0 0x02 (List.replicate 8 0) 0).wellFormed = false := by decide
theorem test_wf_kbReq_five_keys : (Instr.kbReq 0 0 0 [4, 5, 6, 7, 8] 0).wellFormed = false := by decide
theorem test_wf_getRsp_short : (Instr.getRsp 0 (List.replicate 49 0) 0).wellFormed = false := by decide
theorem test_wf_setReq_long : (Instr.setReq 0 (List.replicate 51 0) 0).wellFormed = false := by decide
theorem test_wf_frame_at_the_bound : (Instr.frame 0 0x34 (List.replicate 255 0) 0).wellFormed = true := by decide

/-! ### Decoding: words written out from the spec's encodings -/

/-- R130's worked example. -/
theorem test_decode_frame :
    decode [0x57, 0xAB, 0x12, 0x34, 0x02, 0xDE, 0xAD, 0xD5] = .ok (.frame 0x12 0x34 [0xDE, 0xAD] 0xD5) := by decide
/-- R184's worked example. -/
theorem test_decode_kbReq :
    decode [0x57, 0xAB, 0x00, 0x02, 0x08, 0x00, 0x00, 0x04, 0x00, 0x00, 0x00, 0x00, 0x00, 0x10]
      = .ok (.kbReq 0x00 0x00 0x00 [0x04, 0, 0, 0, 0, 0] 0x10) := by decide
/-- R185's worked example. -/
theorem test_decode_msReq :
    decode [0x57, 0xAB, 0x00, 0x05, 0x05, 0x01, 0x00, 0x05, 0xFB, 0x00, 0x0D]
      = .ok (.msReq 0x00 0x01 0x00 0x05 0xFB 0x00 0x0D) := by decide
/-- R97. -/
theorem test_decode_getReq : decode [0x57, 0xAB, 0x00, 0x08, 0x00, 0x0A] = .ok (.getReq 0x00 0x0A) := by decide
/-- R186's worked example. -/
theorem test_decode_getRsp :
    decode ([0x57, 0xAB, 0x00, 0x88, 0x32] ++ block9600 ++ [0x61]) = .ok (.getRsp 0x00 block9600 0x61) := by decide
/-- spec/95_test_vectors.md 2.1. -/
theorem test_decode_setReq :
    decode ([0x57, 0xAB, 0x00, 0x09, 0x32] ++ block9600 ++ [0xE2]) = .ok (.setReq 0x00 block9600 0xE2) := by decide
/-- R187's worked example. -/
theorem test_decode_setRsp :
    decode [0x57, 0xAB, 0x00, 0x89, 0x01, 0xE5, 0x71] = .ok (.setRsp 0x00 0xE5 0x71) := by decide
/-- R110: the operations that `OP` alone selects, and the arms of `DISPATCH`. -/
theorem test_decode_operations :
    decode [0x01, 0x00] = .ok .send ∧ decode [0x02, 0xFF] = .ok .recv ∧ decode [0x03, 0x08] = .ok .xfer ∧
    decode [0x04, 0x02] = .ok .dispatchKb ∧ decode [0x04, 0x05] = .ok .dispatchMs ∧
    decode [0x04, 0x08] = .ok .dispatchGet ∧ decode [0x04, 0x09] = .ok .dispatchSet ∧
    decode [0x04, 0x88] = .ok .dispatchUnlisted ∧ decode [0x05, 0x02] = .ok .fmtKb ∧
    decode [0x06, 0x00] = .ok .fmtMsRel ∧ decode [0x07, 0x00] = .ok .clear ∧ decode [0x0F, 0x00] = .ok .softReset := by
  decide
/-- R112. -/
theorem test_decode_reserved :
    decode [0x00, 0x02] = .ok .reserved0 ∧ decode [0x08, 0x00] = .ok .reserved8 ∧ decode [0x09, 0x00] = .ok .reserved9 ∧
    decode [0x0A, 0x00] = .ok .reservedA ∧ decode [0x0B, 0x00] = .ok .reservedB ∧
    decode [0x0C, 0x00] = .ok .reservedC ∧ decode [0x0D, 0x00] = .ok .reservedD ∧
    decode [0x0E, 0x00] = .ok .reservedE := by decide
/-- R90, R92, R110: what is no instruction. -/
theorem test_decode_rejects :
    decode [0x57, 0xAA, 0x00, 0x08, 0x00, 0x0A] = .error .badHeader ∧
    decode [0x57, 0xAB, 0x00, 0x08, 0x01, 0x0A] = .error (.badLength 7 6) ∧
    decode [0x10, 0x00] = .error .notAnOperationWord ∧ decode [] = .error (.badSize 0) ∧
    decode [0x57, 0xAB, 0x00] = .error (.badSize 3) := by decide
/-- R107: the table's rows, as the host numbers them. -/
theorem test_decodeTableWord :
    decodeTableWord 40 0x57AB008900 = some (.frame 0x00 0x89 [] 0) ∧
    decodeTableWord 40 0x57AB008901 = some (.setRsp 0x00 0 0) ∧ decodeTableWord 16 0x409 = some .dispatchSet ∧
    decodeTableWord 16 0xF00 = some .softReset ∧ decodeTableWord 16 0x1000 = none := by decide

/-! ### One step of each instruction, from spec/95_test_vectors.md and the rules' worked examples -/

/-- R132's worked example, its acceptance. -/
theorem test_send : nextWith (fun t => t.phase == .tx && t.link == [] && t.result == .none)
    (exec .send (loaded 0x05 [0x01, 0x00, 0x05, 0xFB, 0x00])) = true := by decide
/-- R155. -/
theorem test_recv : nextWith (fun t => t.phase == .rx && t.rxNeed == 261 && t.link == [])
    (exec .recv { State.reset with expLen := 0xFF }) = true := by decide
/-- R162. -/
theorem test_xfer : nextWith (fun t => t.phase == .tx && t.link == [.rxFlush] && t.rxQueue == [] && t.expCmd == 0x08)
    (exec .xfer { loaded 0x08 [] with rxQueue := [1, 2, 3] }) = true := by decide
/-- spec/95_test_vectors.md 2.3. -/
theorem test_dispatchKb : nextWith (fun t => t.phase == .tx && t.opLatch.bits == 0 && t.link == [])
    (exec .dispatchKb (loaded 0x02 [0, 0, 4, 0, 0, 0, 0, 0])) = true := by decide
theorem test_dispatchKb_short : nextWith (fun t => t.phase == .done && t.errCode == .badop && t.errSeen == 0x100)
    (exec .dispatchKb (loaded 0x02 [0, 0, 4, 0, 0, 0, 0])) = true := by decide
theorem test_dispatchMs : nextWith (fun t => t.phase == .tx && t.opLatch.bits == 0)
    (exec .dispatchMs (loaded 0x05 [1, 0, 5, 0xFB, 0])) = true := by decide
theorem test_dispatchGet : nextWith (fun t => t.opLatch.bits == 0b01 && t.expLen == 50 && t.link == [.rxFlush])
    (exec .dispatchGet (loaded 0x08 [])) = true := by decide
theorem test_dispatchGet_long : nextWith (fun t => t.errCode == .badop && t.link == [] && t.expLen == 0)
    (exec .dispatchGet (loaded 0x08 [0])) = true := by decide
theorem test_dispatchSet : nextWith (fun t => t.opLatch.bits == 0b11 && t.expCmd == 0x09 && t.expLen == 1)
    (exec .dispatchSet (loaded 0x09 block9600)) = true := by decide
theorem test_dispatchUnlisted : nextWith (fun t => t.status == 0x0B && t.errCode.code == 8)
    (exec .dispatchUnlisted (loaded 0x88 block9600)) = true := by decide
/-- spec/95_test_vectors.md 2.4: `KB_CNT` = 255, and a zero code kept in place. -/
theorem test_fmtKb : nextWith (fun t =>
      memRange t.txBuf 0 8 == some [0x02, 0x00, 0x04, 0x05, 0x06, 0x07, 0x08, 0x09] && t.txCmd == 0x02 && t.txLen == 8)
    (exec .fmtKb { State.reset with kbMod := 2, kbCnt := 255, kbKey := #v[4, 5, 6, 7, 8, 9] }) = true := by decide
theorem test_fmtKb_zero_code : nextWith (fun t => memRange t.txBuf 0 8 == some [0, 0, 0, 4, 0, 0, 0, 0])
    (exec .fmtKb { State.reset with kbCnt := 2, kbKey := #v[0, 4, 5, 6, 7, 8] }) = true := by decide
theorem test_fmtMsRel : nextWith (fun t => memRange t.txBuf 0 5 == some [0x01, 0x01, 0x7F, 0xFD, 0xFF] && t.txLen == 5)
    (exec .fmtMsRel { State.reset with msDx := 0x012C, msDy := 0xFFFD, msBtn := 1, msWheel := 0xFF }) = true := by decide
/-- R220's worked example. -/
theorem test_clear : nextWith (fun t => t.phase == .idle && t.errCode == .none && t.errStatus == 0 && t.errSeen == 0x040)
    (exec .clear { State.reset with
      phase := .done, result := .err, errCode := .rejected, errStatus := 0xE5, errSeen := 0x040 }) = true := by decide
/-- R221's worked example. -/
theorem test_softReset : nextWith (fun t => t.phase == .idle && t.rxIdx == 0 && t.errSeen == 0 && t.rxQueue == [7])
    (exec .softReset { receivingFor 0x09 1 true with rxIdx := 3, errSeen := 0x100, rxQueue := [7] }) = true := by decide
/-- R112, U14. -/
theorem test_reserved : ∀ i ∈ [Instr.reserved0, .reserved8, .reserved9, .reservedA, .reservedB, .reservedC, .reservedD,
    .reservedE], nextWith (fun t => t.errCode == .badop && t.link == [] && t.phase == .done) (exec i State.reset) = true := by
  decide
/-- R132's worked example: the frame on the link, then the flush; `STATUS` = 0x07, `TX_IDX` = 11, `TX_SUM` = 0x0D. -/
theorem test_msReq : nextWith (fun t =>
      t.link == ([0x57, 0xAB, 0x00, 0x05, 0x05, 0x01, 0x00, 0x05, 0xFB, 0x00, 0x0D].map .txByte ++ [.txFlush])
        && t.status == 0x07 && t.txIdx == 11 && t.txSum == 0x0D)
    (exec (.msReq 0x00 0x01 0x00 0x05 0xFB 0x00 0x0D) (sending 0x05 [0x01, 0x00, 0x05, 0xFB, 0x00])) = true := by decide
/-- R184's worked example. -/
theorem test_kbReq : nextWith (fun t => t.link.length == 15 && t.phase == .done)
    (exec (.kbReq 0x00 0x00 0x00 [0x04, 0, 0, 0, 0, 0] 0x10) (sending 0x02 [0, 0, 4, 0, 0, 0, 0, 0])) = true := by decide
/-- R186: after the request 56 bytes are awaited. -/
theorem test_getReq : nextWith (fun t => t.phase == .rx && t.rxNeed == 56 && t.link.length == 7)
    (exec (.getReq 0x00 0x0A) { sending 0x08 [] with expCmd := 8, expLen := 50, opLatch := ⟨true, false⟩ }) = true := by
  decide
/-- R187. -/
theorem test_setReq : nextWith (fun t => t.phase == .rx && t.rxNeed == 7 && t.txSum == 0xE2)
    (exec (.setReq 0x00 block9600 0xE2) { sending 0x09 block9600 with expLen := 1, opLatch := ⟨true, true⟩ }) = true := by
  decide
/-- R186's worked example. -/
theorem test_getRsp : nextWith (fun t => t.result == .ok && t.checks.bits == 0b1111 && rspPayload t == some block9600)
    (exec (.getRsp 0x00 block9600 0x61) (receivingFor 0x08 50 false)) = true := by decide
/-- spec/95_test_vectors.md 2.3: a rejection, and a bad checksum that outranks it. -/
theorem test_setRsp_rejected : nextWith (fun t => t.errCode.code == 6 && t.errStatus == 0xE5 && t.checks.bits == 0b1111)
    (exec (.setRsp 0x00 0xE5 0x71) (receivingFor 0x09 1 true)) = true := by decide
theorem test_setRsp_bad_checksum : nextWith (fun t => t.errCode.code == 4 && t.errStatus == 0 && t.checks.bits == 0b0111)
    (exec (.setRsp 0x00 0xE5 0x70) (receivingFor 0x09 1 true)) = true := by decide
/-- spec/95_test_vectors.md 2.2: a consistent frame of another command, and the three of four checks that fail. -/
theorem test_frame_wrong_command : nextWith (fun t => t.errCode.code == 2 && t.checks.bits == 0b1101 && t.rxSum == 0xAD)
    (exec (.frame 0x00 0xC9 [0xE1] 0xAD) (receivingFor 0x09 1 false)) = true := by decide
/-- `57 AB 00 88 02 00 00` for `EXP_CMD` = 0x09, `EXP_LEN` = 1, taken byte by byte to the verdict. -/
theorem test_frame_three_fail : (receiveFrame [0x57, 0xAB, 0x00, 0x88, 0x02, 0x00, 0x00] (receivingFor 0x09 1 false)).status
    = 0x1B := by decide
/-- `TX_SUM` after the third and fourth byte, spec/95_test_vectors.md 2.1. -/
theorem test_txReady : nextWith (fun t => t.txSum == 0x07 && t.txIdx == 4 && t.link == [.txByte 0x05])
    (step { sending 0x05 [1, 0, 5, 0xFB, 0] with txIdx := 3, txSum := 0x02, inputs := [.txReady] }) = true := by decide
/-- R135, spec/95_test_vectors.md 2.1. -/
theorem test_txFail : nextWith (fun t => t.errCode.code == 7 && t.errSeen == 0x080 && t.txIdx == 2 && t.link == [])
    (step { sending 0x05 [1, 0, 5, 0xFB, 0] with txIdx := 2, txSum := 0x02, inputs := [.txFail] }) = true := by decide
/-- R157. -/
theorem test_rxTimeout : nextWith (fun t => t.errCode.code == 5 && t.rxIdx == 3 && t.checks.bits == 0)
    (step { receivingFor 0x09 1 false with rxIdx := 3, inputs := [.rxTimeout] }) = true := by decide
/-- R46: an operand write in phase `TX` is dropped. -/
theorem test_wr_busy : nextWith (fun t => t.txCmd == 0x02) (step { sending 0x02 [] with inputs := [wrReg 0x06 0x05] })
    = true := by decide
/-- R27: a write of `KB_KEY[6]` is dropped. -/
theorem test_wr_kbKey : nextWith (fun t => t.kbKey == #v[0, 0, 0, 0, 0, 9]) (step (waiting [.wr 0x20 5 0x09])) = true ∧
    nextWith (fun t => t.kbKey == #v[0, 0, 0, 0, 0, 0]) (step (waiting [.wr 0x20 6 0x09])) = true := by decide
/-- R64's worked example. -/
theorem test_baud : baudGet resetDevBlock = 9600 ∧ baudGet (baudSet resetDevBlock 115200) = 115200 := by decide
/-- spec/95_test_vectors.md 2.4. -/
theorem test_deltaByte : [-32768, -200, -128, -127, -126, -1, 1, 126, 127, 128, 32767].map deltaByte
    = [0x81, 0x81, 0x81, 0x81, 0x82, 0xFF, 0x01, 0x7E, 0x7F, 0x7F, 0x7F] := by decide
theorem test_reset_memory_wf : Memory.wf cfg.txBufCells State.reset.txBuf = true ∧
    Memory.wf cfg.rxBufCells State.reset.rxBuf = true := by decide
/-- The host's first instruction after reset: an operation word, and a frame. -/
theorem test_withFetchWord : nextWith (fun t => t.errCode == .badop && t.txCmd == 0x09 && t.inputs == [])
      (step (State.reset.withFetchWord 16 0x409)) = true ∧
    nextWith (fun t => t.rxQueue == [0x57, 0xAB, 0x00, 0x89, 0x01, 0x00, 0x00])
      (step (State.reset.withFetchWord 40 0x57AB008901)) = true := by decide
/-- R274: what the device stored takes effect at its power cycle. -/
theorem test_devPowerCycle : nextWith (fun t => t.devBaud == 115200)
    (step { waiting [.devPowerCycle] with devBlock := baudSet resetDevBlock 115200 }) = true := by decide
/-- spec/95_test_vectors.md P6: a late GET response in front of a SET response. -/
theorem test_stale_response : nextWith (fun t =>
      t.status == 0x1B && t.errSeen == 0x004 && t.rxSum == 0xBC && t.rxQueue.length == 49)
    (exec (.getRsp 0x00 block9600 0x61) (receivingFor 0x09 1 true)) = true := by decide
/-- R92, log entry 7: two bytes on the link are no operation word. -/
theorem test_link_two_bytes : nextWith (fun t => t.rxQueue == [0x04, 0x09] && t.phase == .idle)
    (step (waiting [.link [0x04, 0x09]])) = true := by decide

/-! ### Witnesses: states and operands that meet each statement's hypotheses -/

theorem reset_ready : Ready State.reset := .inl rfl
theorem loaded_ready (cmd : Byte) (payload : List Byte) : Ready (loaded cmd payload) := .inr rfl

/-- Encodings. -/
theorem witness_DecodeOfEncodeGivesTheInstruction :
    (Instr.frame 0x12 0x34 [0xDE, 0xAD] 0).wellFormed = true ∧ (Instr.kbReq 0 0 0 [4, 0, 0, 0, 0, 0] 0).wellFormed = true ∧
    (Instr.getRsp 0 block9600 0).wellFormed = true ∧ (Instr.setReq 0 block9600 0).wellFormed = true ∧
    Instr.dispatchUnlisted.wellFormed = true := by decide
theorem witness_DecodedBytesAreTheEncoding :
    (decode [0x57, 0xAB, 0x00, 0x08, 0x00, 0x0A] = .ok (.getReq 0x00 0x0A) ∧
      [0x57, 0xAB, 0x00, 0x08, 0x00, (0x0A : Byte)].length ≠ 2) ∧
    (decode [0x04, 0x77] = .ok .dispatchUnlisted ∧ [0x04, (0x77 : Byte)].length = 2) := by decide
theorem witness_EveryOperationWordSelectsItsRow :
    ∃ c : Byte, c ≠ 0x02 ∧ c ≠ 0x05 ∧ c ≠ 0x08 ∧ c ≠ 0x09 := ⟨0x0A, by decide⟩
theorem witness_StepRunsTheDecodedInstruction :
    (waiting [.wr 0x00 0 0x7]).inputs = [.wr 0x00 0 0x7] ∧ (waiting [.link [0]]).inputs = [.link [0]] ∧
    fetch (waiting [.wr 0x00 0 0x7]) = some [0x07, 0x00] ∧ decode [0x07, 0x00] = .ok .clear ∧
    Instr.clear.wellFormed = true ∧
    fetch (waiting [.link [0x57, 0xAB, 0x00, 0x08, 0x00, 0x0A]]) = some [0x57, 0xAB, 0x00, 0x08, 0x00, 0x0A] := by decide

/-- Pure functions. -/
theorem witness_ResponseCommandSetsBitSeven :
    (0x88 : Byte).getLsbD 7 = true ∧ dispatchEntry 0x09 = some entrySet ∧ entrySet.await = true ∧
    (checksAtVerdict { State.reset with rxBuf := [(3, 0x80)] }).cmdOk = true := by decide
theorem witness_ChecksumLaws : [(1 : Byte), 2, 2].Perm [2, 1, 2] ∧ State.reset.txIdx.toNat < State.reset.txLen.toNat + 5 := by
  decide
theorem witness_BuildFrameBytes :
    (List.replicate 255 (0xFF : Byte)).length ≤ 255 ∧ 255 < (List.replicate 256 (0 : Byte)).length ∧
    buildFrame 0x00 0x88 [] = some [0x57, 0xAB, 0x00, 0x88, 0x00, 0x8A] := by
  refine ⟨by simp, by simp, by decide⟩
theorem witness_BuiltFrameRoundTrip :
    buildFrame 0x00 0x08 [] = some [0x57, 0xAB, 0x00, 0x08, 0x00, 0x0A] ∧ (0x08 : Byte).getLsbD 7 = false ∧
    buildFrame 0x00 0x88 [] = some [0x57, 0xAB, 0x00, 0x88, 0x00, 0x8A] ∧ (0x88 : Byte).getLsbD 7 = true := by decide
theorem witness_FirstFailingFieldIsNamed :
    [0x58, 0xAB, 0x00, 0x88, 0x02, 0x00, (0x00 : Byte)].length = (1 : Byte).toNat + 6 ∧
    [0x57, (0xAB : Byte)].length ≠ (0 : Byte).toNat + 6 := by decide
theorem witness_WhatTheChecksumDetects :
    sumOk [0x57, 0xAB, 0x00, 0x89, 0x01, 0x00, 0x8C] = true ∧ 6 < [0x57, 0xAB, 0x00, 0x89, 0x01, 0x00, (0x8C : Byte)].length ∧
    (0x8D : Byte) ≠ [0x57, 0xAB, 0x00, 0x89, 0x01, 0x00, (0x8C : Byte)].getD 6 0 ∧
    parseResponse [0x57, 0xAB, 0x00, 0x89, 0x01, 0x00, 0x8C] 0x09 1 = some (.ok [0x00]) ∧
    sumOk ([0x57, 0xAB] ++ 0x00 :: ([0x89] ++ 0x01 :: ([0x00] ++ [0x8C]))) = true ∧
    [(0x57 : Byte), 0xAB].Perm [0xAB, 0x57] := by decide
theorem witness_KeyboardPayloadBytes : 0 < 6 ∧ 5 < 6 ∧ 5 < [(1 : Byte), 2, 3, 4, 5, 6, 7].length := by decide
theorem witness_DeltaByteSaturatesAndKeepsTheSign :
    (0 < (1 : Int) ∧ (1 : Int) ≤ 127) ∧ (0 < (127 : Int) ∧ (127 : Int) ≤ 127) ∧ (-127 ≤ (-127 : Int) ∧ (-127 : Int) < 0) ∧
    (-127 ≤ (-1 : Int) ∧ (-1 : Int) < 0) := by decide
theorem witness_BaudFieldRoundTrip : (2 < 50 ∧ (2 < 3 ∨ 6 < 2)) ∧ (7 < 50 ∧ (7 < 3 ∨ 6 < 7)) ∧ (49 < 50 ∧ (49 < 3 ∨ 6 < 49)) := by
  decide

/-- Issuing operations. -/
theorem witness_SendBeginsTheTransmitPhase : Ready State.reset ∧ Ready (loaded 0x05 []) := ⟨.inl rfl, .inr rfl⟩
theorem witness_RecvBeginsTheReceivePhase : Ready { State.reset with expLen := 0xFF } := .inl rfl
theorem witness_XferFlushesAndBeginsTheTransmitPhase : Ready { loaded 0x08 [] with rxQueue := [1] } := .inr rfl
theorem witness_FireAndForgetArmsBeginTheTransmitPhase :
    (Ready (loaded 0x02 [0, 0, 4, 0, 0, 0, 0, 0]) ∧ (loaded 0x02 [0, 0, 4, 0, 0, 0, 0, 0]).txCmd = 0x02 ∧
      (loaded 0x02 [0, 0, 4, 0, 0, 0, 0, 0]).txLen = 8) ∧
    (Ready (loaded 0x05 [1, 0, 5, 0xFB, 0]) ∧ (loaded 0x05 [1, 0, 5, 0xFB, 0]).txCmd = 0x05 ∧
      (loaded 0x05 [1, 0, 5, 0xFB, 0]).txLen = 5) := ⟨⟨.inr rfl, rfl, rfl⟩, .inr rfl, rfl, rfl⟩
theorem witness_AwaitingArmsBeginTheirExchange :
    (Ready (loaded 0x08 []) ∧ (loaded 0x08 []).txCmd = 0x08 ∧ (loaded 0x08 []).txLen = 0) ∧
    (Ready (loaded 0x09 block9600) ∧ (loaded 0x09 block9600).txCmd = 0x09 ∧ (loaded 0x09 block9600).txLen = 50) :=
  ⟨⟨.inr rfl, rfl, rfl⟩, .inr rfl, rfl, rfl⟩
/-- The four outcomes of `DISPATCH`, one state each. -/
theorem witness_DispatchFollowsItsTable :
    let l : List Input := [.wr 0x00 0 0x4]
    ({ loaded 0x0A [] with inputs := l }.inputs = .wr 0x00 0 0x4 :: [] ∧ (0x4 : Half).setWidth 4 = (0x4 : BitVec 4) ∧
      Ready { loaded 0x0A [] with inputs := l } ∧ dispatchEntry 0x0A = none) ∧
    (dispatchEntry (loaded 0x02 [0]).txCmd = some entryKb ∧ (loaded 0x02 [0]).txLen ≠ entryKb.reqLen) ∧
    (dispatchEntry (loaded 0x05 [1, 0, 5, 0xFB, 0]).txCmd = some entryMs ∧
      (loaded 0x05 [1, 0, 5, 0xFB, 0]).txLen = entryMs.reqLen ∧ entryMs.await = false) ∧
    (dispatchEntry (loaded 0x08 []).txCmd = some entryGet ∧ (loaded 0x08 []).txLen = entryGet.reqLen ∧
      entryGet.await = true ∧ entryGet.rspLen = some 50) ∧ (0x0A : Byte) ≠ 0x02 ∧ (0x0A : Byte) ≠ 0x05 ∧
    (0x0A : Byte) ≠ 0x08 ∧ (0x0A : Byte) ≠ 0x09 :=
  ⟨⟨rfl, by decide, .inr rfl, by decide⟩, by decide, by decide, by decide, by decide⟩
theorem witness_ReservedAndUnlistedRaiseBadop : Ready State.reset ∧
    Instr.reserved0 ∈ [Instr.dispatchUnlisted, .reserved0, .reserved8, .reserved9, .reservedA, .reservedB, .reservedC,
      .reservedD, .reservedE] := ⟨.inl rfl, by decide⟩
theorem witness_BusyCodecIgnoresOperations :
    (sending 0x08 []).phase = .tx ∧ (receivingFor 0x09 1 true).phase = .rx ∧ Instr.clear ∈ ordinaryOps := by decide
theorem witness_FmtKbWritesTheKeyboardReport :
    let s : State := { State.reset with kbCnt := 8, kbKey := #v[4, 5, 6, 7, 8, 9] }
    Ready s ∧ Memory.wf cfg.txBufCells s.txBuf = true ∧ [(4 : Byte), 5, 6, 7, 8, 9, 10, 11].length = s.kbCnt.toNat ∧
    [(4 : Byte), 5, 6, 7, 8, 9, 10, 11].take 6 = s.kbKey.toList.take (min s.kbCnt.toNat 6) :=
  ⟨.inl rfl, by decide, by decide, by decide⟩
theorem witness_FmtMsRelWritesTheMouseReport : Ready (loaded 0x02 [0, 0, 4, 0, 0, 0, 0, 0]) ∧
    Memory.wf cfg.txBufCells (loaded 0x02 [0, 0, 4, 0, 0, 0, 0, 0]).txBuf = true := ⟨.inr rfl, by decide⟩
theorem witness_ResetPutsEveryRegisterBack : (waiting [.rst]).inputs = .rst :: [] := rfl

/-- `Inv` holds where nothing has run, and at the start of a transmit and of a receive phase. -/
theorem reset_inv (l : List Input) : Inv (waiting l) := by
  constructor <;> simp [waiting, State.reset, Memory.wf, memWfFrom, Checks.zero]
theorem sending_inv (l : List Input) : Inv { sending 0x08 [] with inputs := l } := by
  constructor <;> simp [sending, loaded, State.reset, memWriteList, Memory.wf, memWfFrom, Checks.zero, sum8]
theorem receiving_inv (l : List Input) : Inv { receivingFor 0x09 1 true with inputs := l } := by
  constructor <;> simp [receivingFor, State.reset, Memory.wf, memWfFrom, Checks.zero, memRange, sum8]
/-- A transmit phase one of whose payload cells nothing has written. -/
theorem sending_unwritten_inv (l : List Input) :
    Inv { sending 0x08 [] with txLen := 1, txIdx := 5, txSum := 0x0B, inputs := l } := by
  constructor <;>
    simp [sending, loaded, State.reset, memWriteList, Memory.wf, memWfFrom, Checks.zero, operandFrame, operandPayload,
      memRange, memRead]
theorem witness_ClearAcknowledgesTheResult : Ready (loaded 0x02 []) ∧ (sending 0x02 []).phase = .tx ∧
    (receivingFor 0x09 1 true).phase = .rx ∧ Inv (waiting []) ∧ (waiting []).phase = .idle :=
  ⟨.inr rfl, rfl, rfl, reset_inv [], rfl⟩

/-- Frames on the link: each request row, and each response row. -/
theorem witness_RequestFrameIsHandedOver_rows :
    (isRequestFrame (.frame 0x00 0x34 [0xDE] 0x15) = true ∧
      operandFrame (sending 0x34 [0xDE]) = some (encode (.frame 0x00 0x34 [0xDE] 0x15))) ∧
    operandFrame (sending 0x02 [0, 0, 4, 0, 0, 0, 0, 0]) = some (encode (.kbReq 0x00 0 0 [4, 0, 0, 0, 0, 0] 0x10)) ∧
    operandFrame (sending 0x05 [1, 0, 5, 0xFB, 0]) = some (encode (.msReq 0x00 1 0 5 0xFB 0 0x0D)) ∧
    operandFrame (sending 0x08 []) = some (encode (.getReq 0x00 0x0A)) ∧
    operandFrame (sending 0x09 block9600) = some (encode (.setReq 0x00 block9600 0xE2)) := by decide
theorem witness_RequestFrameIsHandedOver_start :
    isRequestFrame (.frame 0x00 0x34 [0xDE] 0x15) = true ∧ isRequestFrame (.getReq 0x00 0x0A) = true ∧
    (sending 0x08 []).phase = .tx ∧ (sending 0x08 []).txIdx = 0 ∧ (sending 0x08 []).txSum = 0 ∧
    (sending 0x09 block9600).phase = .tx ∧ (sending 0x09 block9600).txIdx = 0 ∧ (sending 0x09 block9600).txSum = 0 := by
  decide
/-- The five reasons why a request frame is not the one being sent. -/
theorem witness_RequestFrameNotSentChangesNothing :
    isRequestFrame (.getReq 0x00 0x0A) = true ∧ State.reset.phase ≠ .tx ∧
    { sending 0x08 [] with txIdx := 1 }.txIdx ≠ 0 ∧ { sending 0x08 [] with txSum := 1 }.txSum ≠ 0 ∧
    (encode (.getReq 0x00 0x0A)).take 5 ≠ [0x57, 0xAB, (sending 0x34 []).txAddr, (sending 0x34 []).txCmd, 1] ∧
    operandFrame { sending 0x34 [] with txLen := 1 } = none ∧
    operandFrame (sending 0x34 [0xDE]) = some [0x57, 0xAB, 0x00, 0x34, 0x01, 0xDE, 0x15] ∧
    [0x57, 0xAB, 0x00, 0x34, 0x01, 0xDE, 0x15] ≠ encode (.getReq 0x00 0x0A) := by decide
theorem witness_DeviceFrameWaitsOutsideRx :
    isDeviceFrame (.getRsp 0x00 block9600 0x61) = true ∧ isDeviceFrame (.setRsp 0x00 0 0) = true ∧
    isDeviceFrame (.frame 0x00 0xC9 [0xE1] 0xAD) = true ∧ State.reset.phase ≠ .rx := by decide
theorem receivingFor_awaits (ec el : Byte) (chk : Bool) : AwaitsResponse (receivingFor ec el chk) :=
  ⟨rfl, rfl, rfl, rfl, rfl, rfl⟩
/-- A receive phase with one byte taken and `q` waiting. -/
def midRead (el : Byte) (q : List Byte) : State :=
  { receivingFor 0x09 el false with rxIdx := 1, rxSum := 0x57, rxBuf := [(0, 0x57)], rxQueue := q }
theorem receivingFor_receiving (ec el : Byte) (chk : Bool) : Receiving [] (receivingFor ec el chk) := by
  refine ⟨rfl, rfl, ?_, rfl, rfl, rfl⟩
  have := el.isLt
  simp [receivingFor, State.reset]
  omega
theorem midRead_receiving (q : List Byte) : Receiving [0x57] (midRead 3 q) :=
  ⟨rfl, rfl, show (1 : Count).toNat < ((3 : Byte).setWidth 9 + 6 : Count).toNat by decide, rfl, rfl, rfl⟩
/-- Every sound state in phase `RX` is a receive phase of the statements. -/
theorem receiving_of_inv (s : State) (h : Inv s) (hp : s.phase = .rx) : ∃ old, Receiving old s := by
  obtain ⟨old, hr, hs⟩ := h.rxCells hp
  exact ⟨old, hp, h.rxNeedIs hp, h.rxWithin hp, hr, hs, h.rxBufWf⟩
/-- At the start of a receive phase, and in mid-receive behind a waiting byte. -/
theorem witness_DeviceFrameIsReadAndJudged :
    (Receiving [] (receivingFor 0x49 1 false) ∧ isDeviceFrame (.frame 0x00 0xC9 [0xE1] 0xAD) = true ∧
      0 + (receivingFor 0x49 1 false).rxQueue.length + (encode (.frame 0x00 0xC9 [0xE1] 0xAD)).length
        = (1 : Byte).toNat + 6) ∧
    (Receiving [0x57] (midRead 3 [0xAB]) ∧ isDeviceFrame (.setRsp 0x00 0xE5 0x71) = true ∧
      1 + (midRead 3 [0xAB]).rxQueue.length + (encode (.setRsp 0x00 0xE5 0x71)).length = (3 : Byte).toNat + 6) ∧
    (encode (.getRsp 0x00 block9600 0x61)).length = (50 : Byte).toNat + 6 :=
  ⟨⟨receivingFor_receiving _ _ _, rfl, by decide⟩, ⟨midRead_receiving _, rfl, by decide⟩, by decide⟩
/-- One byte too few, one too many, and a frame behind stale bytes that are enough by themselves. -/
theorem witness_DeviceFrameOfAnotherLength :
    (Receiving [0x57] (midRead 3 []) ∧
      1 + (midRead 3 []).rxQueue.length + (encode (.setRsp 0x00 0 0)).length + 1 = (3 : Byte).toNat + 6) ∧
    (Receiving [0x57] (midRead 3 [0xAB, 0xAB]) ∧
      1 + (midRead 3 [0xAB, 0xAB]).rxQueue.length + (encode (.setRsp 0x00 0 0)).length = (3 : Byte).toNat + 6 + 1) ∧
    (Receiving [0x57] (midRead 3 (List.replicate 9 0)) ∧
      (3 : Byte).toNat + 6 < 1 + (midRead 3 (List.replicate 9 0)).rxQueue.length) :=
  ⟨⟨midRead_receiving _, by decide⟩, ⟨midRead_receiving _, by decide⟩, ⟨midRead_receiving _, by decide⟩⟩
theorem witness_GetResponseDeliversTheBlock :
    AwaitsResponse (receivingFor 0x08 50 false) ∧ (receivingFor 0x08 50 false).opLatch.chkStatus = false ∧
    block9600.length = 50 ∧ (0x61 : Byte) = sum8 ([0x57, 0xAB, 0x00, 0x88, 0x32] ++ block9600) :=
  ⟨receivingFor_awaits _ _ _, by decide, by decide, by decide⟩
theorem witness_SetResponseStatusIsTested :
    AwaitsResponse (receivingFor 0x09 1 true) ∧ (receivingFor 0x09 1 true).opLatch.chkStatus = true ∧
    (0x8C : Byte) = sum8 [0x57, 0xAB, 0x00, 0x89, 0x01, 0x00] ∧ (0x8D : Byte) = sum8 [0x57, 0xAB, 0x00, 0x89, 0x01, 0x01] ∧
    (0x01 : Byte) ≠ 0x00 := ⟨receivingFor_awaits _ _ _, by decide, by decide, by decide, by decide⟩

/-- The engines. -/
theorem witness_RaiseRecordsTheCause : ErrCode.rejected ≠ .none ∧ ErrCode.badop ≠ .none ∧ 0 < 9 ∧ 8 < 9 := by decide
/-- Every position of a frame with one payload byte, its checksum the last. -/
theorem witness_TransportReadinessSendsTheNextByte :
    let s : State := { sending 0x34 [0xDE] with inputs := [.txReady], txSum := 0x15 }
    s.phase = .tx ∧ s.inputs = .txReady :: [] ∧
    (∀ i ∈ [(0 : Count), 1, 2, 3, 4], i.toNat < s.txLen.toNat + 5) ∧
    (5 ≤ (5 : Count).toNat ∧ (5 : Count).toNat ≤ s.txLen.toNat + 4 ∧ memRead s.txBuf 0 = some 0xDE) ∧
    (6 : Count).toNat = s.txLen.toNat + 5 ∧ s.opLatch.await = false ∧
    ({ s with opLatch := ⟨true, false⟩ } : State).opLatch.await = true := by decide
theorem witness_UnwrittenPayloadCellIsRefused :
    let s : State := { sending 0x34 [] with txLen := 1, txIdx := 5, inputs := [.txReady] }
    s.inputs = .txReady :: [] ∧ s.phase = .tx ∧ 5 ≤ s.txIdx.toNat ∧ s.txIdx.toNat ≤ s.txLen.toNat + 4 ∧
    memRead s.txBuf (s.txIdx.toNat - 5) = none := by decide
theorem witness_WriteFailureEndsWithIoError : (waiting [.txFail]).inputs = .txFail :: [] ∧ (waiting [.txFail]).phase ≠ .tx ∧
    (sending 0x08 []).phase = .tx := by decide
theorem witness_ReceivedByteIsStoredAndSummed :
    let s : State := { receivingFor 0x09 0xFF false with rxIdx := 259, rxQueue := [7], inputs := [.rxByte] }
    s.inputs = .rxByte :: [] ∧ s.phase = .rx ∧ s.rxQueue = 7 :: [] ∧ s.rxIdx.toNat + 1 < s.rxNeed.toNat ∧
    Memory.wf cfg.rxBufCells s.rxBuf = true ∧ s.rxNeed.toNat ≤ 261 := by decide
theorem witness_TimeoutEndsTheReceivePhase :
    let s : State := { receivingFor 0x09 1 true with rxIdx := 6, inputs := [.rxTimeout] }
    s.inputs = .rxTimeout :: [] ∧ s.phase = .rx ∧ s.rxIdx.toNat < s.rxNeed.toNat ∧ State.reset.phase ≠ .rx ∧
    ({ s with rxIdx := 7 } : State).rxNeed.toNat ≤ ({ s with rxIdx := 7 } : State).rxIdx.toNat := by decide
theorem witness_EventsOutsideTheirPhaseChangeNothing :
    (waiting [.txReady]).inputs = .txReady :: [] ∧ (waiting [.txReady]).phase ≠ .tx ∧
    (waiting [.rxByte]).inputs = .rxByte :: [] ∧ (waiting [.rxByte]).phase ≠ .rx ∧ (receivingFor 0x09 1 true).rxQueue = [] ∧
    { receivingFor 0x09 1 true with rxIdx := 7 }.rxNeed.toNat ≤ (7 : Count).toNat ∧
    (waiting [.arrive [1]]).inputs = .arrive [1] :: [] ∧
    (waiting [.devStore resetDevBlock]).inputs = .devStore resetDevBlock :: [] ∧
    (waiting [.devPowerCycle]).inputs = .devPowerCycle :: [] := by decide
/-- Register numbers and cells at the boundaries of each clause. -/
theorem witness_HostWriteSetsItsOperandOrIsDropped :
    (waiting [.wr 0x05 0 0xFFFF]).inputs = .wr 0x05 0 0xFFFF :: [] ∧ Ready (waiting [.wr 0x05 0 0xFFFF]) ∧
    (sending 0x08 []).phase = .tx ∧ (receivingFor 0x09 1 true).phase = .rx ∧ (0x06 : Byte) ≠ 0x00 ∧
    (5 < 6 ∧ 6 ≤ 6) ∧ Memory.wf cfg.txBufCells (waiting []).txBuf = true ∧ (254 < 255 ∧ ¬255 < 255) ∧
    (∀ no ∈ [(0x01 : Byte), 0x04, 0x10, 0x1F, 0x21, 0x3F, 0x41, 0x80, 0xFF],
      0x00 < no ∧ no < 0x05 ∨ 0x0F < no ∧ no ≠ 0x20 ∧ no ≠ 0x40) :=
  ⟨rfl, .inl rfl, rfl, rfl, by decide, by decide, by decide, by decide, by decide⟩
theorem witness_HostReadReturnsTheRegister :
    (waiting [.rd 0x40 254]).inputs = .rd 0x40 254 :: [] ∧
    memRead { State.reset with txBuf := [(254, 0x11)] }.txBuf 254 = some 0x11 ∧
    memRead { State.reset with rxBuf := [(260, 0x22)] }.rxBuf 260 = some 0x22 ∧ 254 < 255 ∧ 260 < 261 ∧ 5 < 6 := by decide

/-- Whole operations. -/
theorem witness_CompletedSendEmitsTheBuiltFrame :
    let s : State := { loaded 0x34 [0xDE] with inputs := .wr 0x00 0 1 :: (List.replicate 7 .txReady ++ []) }
    Ready s ∧ (1 : Half).setWidth 4 = (0x1 : BitVec 4) ∧
    s.inputs = .wr 0x00 0 1 :: (List.replicate (s.txLen.toNat + 6) .txReady ++ []) ∧
    memRange s.txBuf 0 s.txLen.toNat = some [0xDE] ∧
    buildFrame s.txAddr s.txCmd [0xDE] = some [0x57, 0xAB, 0x00, 0x34, 0x01, 0xDE, 0x15] :=
  ⟨.inr rfl, by decide, by decide, by decide, by decide⟩
theorem witness_CompletedXferOrdersItsTraffic :
    let r : List Byte := [0x57, 0xAB, 0x00, 0x88, 0x00, 0x8A]
    let s : State := { loaded 0x08 [] with
      inputs := .wr 0x00 0 3 :: (List.replicate 6 .txReady ++ (.arrive r :: (List.replicate 6 .rxByte ++ []))) }
    Ready s ∧ (3 : Half).setWidth 4 = (0x3 : BitVec 4) ∧
    s.inputs = .wr 0x00 0 3 :: (List.replicate (s.txLen.toNat + 6) .txReady ++
      (.arrive r :: (List.replicate (s.expLen.toNat + 6) .rxByte ++ []))) ∧
    memRange s.txBuf 0 s.txLen.toNat = some [] ∧
    buildFrame s.txAddr s.txCmd [] = some [0x57, 0xAB, 0x00, 0x08, 0x00, 0x0A] ∧ r.length = s.expLen.toNat + 6 ∧
    Memory.wf cfg.rxBufCells s.rxBuf = true :=
  ⟨.inr rfl, by decide, by decide, by decide, by decide, by decide, by decide⟩
theorem witness_FullReadVerdictIsParseResponse :
    let r : List Byte := [0x57, 0xAB, 0x00, 0x89, 0x01, 0xE5, 0x71]
    let s : State := { receivingFor 0x09 1 true with rxQueue := r ++ [0xFF], inputs := List.replicate 7 .rxByte ++ [] }
    s.phase = .rx ∧ s.rxIdx = 0 ∧ s.rxSum = 0 ∧ s.rxNeed = s.expLen.setWidth 9 + 6 ∧ s.rxQueue = r ++ [0xFF] ∧
    r.length = s.expLen.toNat + 6 ∧ Memory.wf cfg.rxBufCells s.rxBuf = true ∧
    s.inputs = List.replicate (s.expLen.toNat + 6) .rxByte ++ [] := by decide
theorem witness_ShortReadIsATimeout :
    let s : State := { receivingFor 0x09 1 true with
      rxQueue := [0, 0, 0, 0, 0, 0], inputs := List.replicate 6 .rxByte ++ [.rxTimeout] }
    s.phase = .rx ∧ s.rxIdx = 0 ∧ s.rxSum = 0 ∧ s.rxQueue.length < s.rxNeed.toNat ∧ s.rxNeed.toNat ≤ 261 ∧
    Memory.wf cfg.rxBufCells s.rxBuf = true ∧
    s.inputs = List.replicate s.rxQueue.length .rxByte ++ (.rxTimeout :: []) := by decide
theorem witness_TransmitPhaseEnds :
    Inv { sending 0x08 [] with inputs := List.replicate 6 .txReady ++ [] } ∧ (sending 0x08 []).phase = .tx ∧
    PayloadWritten (sending 0x08 []) ∧ (sending 0x08 []).txLen.toNat + 6 - (sending 0x08 []).txIdx.toNat = 6 :=
  ⟨sending_inv _, rfl, rfl, rfl⟩

/-- Invariants and rules of the whole machine. -/
theorem witness_EveryStepKeepsTheStateSound :
    Inv { sending 0x08 [] with inputs := [.txReady] } ∧ Inv { receivingFor 0x09 1 true with inputs := [.rxTimeout] } ∧
    (∃ t, step { sending 0x08 [] with inputs := [.txReady] } = .next t) ∧
    ∃ t, step { receivingFor 0x09 1 true with inputs := [.rxTimeout] } = .next t :=
  ⟨sending_inv _, receiving_inv _, ⟨_, rfl⟩, ⟨_, rfl⟩⟩
theorem witness_SoundStatesStepOrLackAPayload :
    Inv { sending 0x08 [] with txLen := 1, txIdx := 5, txSum := 0x0B, inputs := [.txReady] } ∧
    step { sending 0x08 [] with txLen := 1, txIdx := 5, txSum := 0x0B, inputs := [.txReady] }
      = .refused .unwrittenTxCell := ⟨sending_unwritten_inv _, rfl⟩
theorem witness_EveryInstructionAnswersANextState :
    isRequestFrame (.setRsp 0 0 0) = false ∧ State.reset.phase ≠ .tx ∧ PayloadWritten (sending 0x08 []) :=
  ⟨rfl, by decide, rfl⟩
/-- An operation issued, a frame that ends a receive phase, and an event. -/
theorem witness_PhaseMovesByTheTable :
    (∃ t, step (waiting [.wr 0x00 0 2]) = .next t ∧ t.phase = .rx) ∧
    (∃ t, step { receivingFor 0x09 1 true with inputs := [.link [0x57, 0xAB, 0x00, 0x89, 0x01, 0x00, 0x8C]] } = .next t ∧
      t.phase = .done) ∧
    ∃ t, step { sending 0x08 [] with inputs := [.txFail] } = .next t ∧ t.phase = .done :=
  ⟨⟨_, rfl, rfl⟩, ⟨_, rfl, by decide⟩, ⟨_, rfl, rfl⟩⟩
theorem witness_RecordedCausesStay :
    let s : State := { State.reset with errSeen := 0x100, inputs := [.wr 0x00 0 7] }
    (∃ t, step s = .next t) ∧ s.errSeen.getLsbD 8 = true ∧ (∀ rest, s.inputs ≠ .rst :: rest) ∧
    ∀ idx v rest, s.inputs = .wr 0x00 idx v :: rest → v.setWidth 4 ≠ (0xF : BitVec 4) := by
  refine ⟨⟨_, rfl⟩, by decide, by simp, ?_⟩
  intro idx v rest h
  simp only [List.cons.injEq, Input.wr.injEq] at h
  rw [← h.1.2.2]
  decide
theorem witness_EmittedEventsStay : ∃ t, step { loaded 0x08 [] with inputs := [.wr 0x00 0 3] } = .next t ∧
    t.link = [.rxFlush] := ⟨_, rfl, rfl⟩
theorem witness_HostOperandsAndDeviceAreLeftAlone :
    (∃ t, exec .fmtKb State.reset = .next t) ∧ Instr.fmtKb ≠ .softReset ∧ ∃ t, exec .softReset State.reset = .next t :=
  ⟨⟨_, rfl⟩, by decide, ⟨_, rfl⟩⟩
/-- An instruction that writes neither buffer, and a step that writes each. -/
theorem witness_BuffersAreWrittenByTheirOwnersOnly :
    ((∃ t, exec (.getReq 0x00 0x0A) (sending 0x08 []) = .next t) ∧ Instr.getReq 0x00 0x0A ≠ .softReset ∧
      isDeviceFrame (.getReq 0x00 0x0A) = false ∧ Instr.getReq 0x00 0x0A ≠ .fmtKb ∧ Instr.getReq 0x00 0x0A ≠ .fmtMsRel) ∧
    (∃ t, step (waiting [.wr 0x40 254 1]) = .next t ∧ t.txBuf ≠ (waiting [.wr 0x40 254 1]).txBuf) ∧
    ∃ t, step { midRead 3 [0xAB] with inputs := [.rxByte] } = .next t ∧ t.rxBuf ≠ (midRead 3 [0xAB]).rxBuf :=
  ⟨⟨⟨_, rfl⟩, by decide, by decide, by decide, by decide⟩, ⟨_, rfl, by decide⟩, ⟨_, rfl, by decide⟩⟩
/-- A run that is over and good, with events of the environment to come. -/
theorem witness_NoErrorBetweenOperations :
    (waiting [.rxTimeout]).inputs = .rxTimeout :: [] ∧ Ready (waiting [.rxTimeout]) ∧
    (∃ t, step (waiting [.rxTimeout]) = .next t) ∧ (∀ no idx v, Input.rxTimeout ≠ .wr no idx v) ∧
    Input.rxTimeout ≠ .rst ∧ RunOver (waiting [.rxTimeout, .devPowerCycle]) ∧
    RunGood (waiting [.rxTimeout, .devPowerCycle]) ∧
    ∀ rest, (waiting [.rxTimeout, .devPowerCycle]).inputs ≠ .rst :: rest :=
  ⟨rfl, .inl rfl, ⟨_, rfl⟩, by simp, by simp, ⟨by decide, .inl rfl⟩, ⟨⟨by decide, .inl rfl⟩, rfl⟩, by simp [waiting]⟩
/-- Five bytes, a frame cut short, and bytes without a header. -/
theorem witness_LinkBytesThatAreNoFrameArrive :
    (waiting [.link [0, 1, 2, 3, 4]]).inputs = .link [0, 1, 2, 3, 4] :: [] ∧ [(0 : Byte), 1, 2, 3, 4].length < 6 ∧
    decode [0x57, 0xAB, 0x00, 0x89, 0x01, 0x00] = .error (.badLength 7 6) ∧ decode [0, 1, 2, 3, 4, 5] = .error .badHeader ∧
    (waiting []).phase ≠ .rx ∧ Receiving [0x57] (midRead 3 [0xAB]) :=
  ⟨rfl, by decide, by decide, by decide, by decide, midRead_receiving _⟩

end Sys2Proof.Tests
end

section
/-! SUPPORT. What a host write of a register other than `OP` does (spec/10_state.md R45, R46), and the statement that a
write is reduced to the width of what it names or is dropped (spec/00_scope.md R9). -/

namespace Sys2Proof.Machine

/-! ### What a register write names -/

/-- R27: an index inside the key list names that key. -/
theorem writeReg_kbKey_of_lt (idx : Nat) (v : Half) (s : State) (h : idx < 6) :
    writeReg 0x20 idx v s = { s with kbKey := s.kbKey.set idx (v.setWidth 8) } := by
  have hset : s.kbKey.setIfInBounds idx (v.setWidth 8) = s.kbKey.set idx (v.setWidth 8) := by
    simp [Vector.setIfInBounds, Vector.set, Array.setIfInBounds, h]
  rw [← hset]
  rfl

/-- R27: an index outside the key list names nothing. -/
theorem writeReg_kbKey_of_le (idx : Nat) (v : Half) (s : State) (h : 6 ≤ idx) : writeReg 0x20 idx v s = s := by
  have hset : s.kbKey.setIfInBounds idx (v.setWidth 8) = s.kbKey := Vector.setIfInBounds_eq_of_size_le h
  show { s with kbKey := s.kbKey.setIfInBounds idx (v.setWidth 8) } = s
  rw [hset]

theorem writeReg_txBuf (idx : Nat) (v : Half) (s : State) :
    writeReg 0x40 idx v s = { s with txBuf := memWrite cfg.txBufCells s.txBuf idx (v.setWidth 8) } := rfl

/-- R45, R46: the numbers of the read-only registers, and those that are not mapped, name nothing a host can write. -/
theorem writeReg_of_not_writable (no : Byte) (idx : Nat) (v : Half) (s : State)
    (h : no < 0x05 ∨ 0x0F < no ∧ no ≠ 0x20 ∧ no ≠ 0x40) : writeReg no idx v s = s := by
  unfold writeReg
  split
  case h_14 => rfl
  all_goals bv_omega

/-! ### A register write as a step -/

theorem busy_of_tx_or_rx (s : State) (h : s.phase = .tx ∨ s.phase = .rx) : s.phase.busy = true := by
  rcases h with h | h <;> rw [h] <;> rfl

theorem hostWrite_of_busy (no : Byte) (idx : Nat) (v : Half) (s : State) (h : s.phase.busy = true) :
    hostWrite no idx v s = s := if_pos h

theorem hostWrite_of_ready (no : Byte) (idx : Nat) (v : Half) (s : State) (h : Ready s) :
    hostWrite no idx v s = writeReg no idx v s := by
  rw [hostWrite, busy_of_ready s h]
  rfl

section
variable (s : State) (rest : List Input) (no : Byte) (idx : Nat) (v : Half)
  (h : s.inputs = .wr no idx v :: rest) (hno : no ≠ 0x00)
include h hno

/-- A write of a number other than that of `OP` is no instruction (R47). -/
theorem step_of_register_write : step s = .next (hostWrite no idx v { s with inputs := rest }) := by
  have hop : ∀ i w, Input.wr no idx v ≠ .wr 0x00 i w := fun i w he => hno (Input.wr.inj he).1
  have hdrop : dropInput s = { s with inputs := rest } := by simp [dropInput, h]
  rw [step_of_event s _ rest h hop (by simp), hdrop]
  rfl

/-- R46: in phase `TX` or `RX` the write is dropped. -/
theorem step_of_busy_write (hb : s.phase.busy = true) : step s = .next { s with inputs := rest } := by
  rw [step_of_register_write s rest no idx v h hno, hostWrite_of_busy no idx v { s with inputs := rest } hb]

/-- R46: in phase `IDLE` or `DONE` the write takes place. -/
theorem step_of_ready_write (hr : Ready s) : step s = .next (writeReg no idx v { s with inputs := rest }) := by
  rw [step_of_register_write s rest no idx v h hno, hostWrite_of_ready no idx v { s with inputs := rest } hr]

end

/-- Settles O42: a step on a register write is `writeReg`, or nothing in a busy phase; then by the number written. -/
theorem hostWriteSetsItsOperandOrIsDropped : Obligations.HostWriteSetsItsOperandOrIsDropped := by
  unfold Obligations.HostWriteSetsItsOperandOrIsDropped
  refine ⟨fun s rest no idx v h hno hp => step_of_busy_write s rest no idx v h hno (busy_of_tx_or_rx s hp), ?_⟩
  intro s rest no idx v h hr
  have hstep (hno : no ≠ 0x00) := step_of_ready_write s rest no idx v h hno hr
  refine ⟨?_, ?_, ?_, ?_, ?_, ?_, ?_, ?_, ?_, ?_, ?_, ?keyIn, ?keyOut, ?txBuf, ?notWritable⟩
  case keyIn =>
    rintro rfl hidx
    rw [hstep (by decide), writeReg_kbKey_of_lt _ _ _ hidx]
  case keyOut =>
    rintro rfl hidx
    rw [hstep (by decide), writeReg_kbKey_of_le _ _ _ hidx]
  case txBuf =>
    rintro rfl hwf
    refine ⟨_, hstep (by decide), rfl, fun a => ?_⟩
    rw [writeReg_txBuf, memRead_memWrite _ _ _ _ _ hwf]
    simp only [and_comm, eq_comm]
  case notWritable =>
    intro hrange
    rw [hstep (by bv_omega), writeReg_of_not_writable _ _ _ _ (by bv_omega)]
  -- The eleven plain operand registers: `writeReg` at a fixed number computes.
  all_goals
    rintro rfl
    exact hstep (by decide)

end Sys2Proof.Machine
end

section
/-! SUPPORT. What an ordinary operation can do once accepted. -/

namespace Sys2Proof.Machine

/-- The state `t` is what an ordinary operation makes of `s` once accepted. -/
inductive OpOutcome (s : State) : State → Prop where
  /-- `SEND`, and the arms of `DISPATCH` that await nothing (R132, R184, R185). -/
  | transmit : OpOutcome s (beginTransmit { s with opLatch := ⟨false, false⟩ })
  /-- `XFER`, and the arms of `DISPATCH` that await a response (R162, R186, R187). -/
  | exchange (chk : Bool) (len : Byte) (h : chk = true → len = cfg.setRspLen) :
      OpOutcome s (beginTransmit (flushRx { s with opLatch := ⟨true, chk⟩, expCmd := s.txCmd, expLen := len }))
  /-- `RECV` (R155). -/
  | receive : OpOutcome s (beginReceive { s with opLatch := ⟨false, false⟩ })
  /-- The formatters (R201, R203). -/
  | format (cmd len : Byte) (bs : List Byte) :
      OpOutcome s (finishOk { s with txCmd := cmd, txLen := len, txBuf := memWriteList cfg.txBufCells s.txBuf 0 bs })
  /-- `CLEAR` (R220). -/
  | clear : OpOutcome s { s with phase := .idle }
  /-- A reserved code, an unlisted command, a wrong request length (R112, R182). -/
  | badop : OpOutcome s (raise .badop 0 s)

theorem dispatchArm_outcome_of_no_await (e : DispatchEntry) (s : State) (ha : e.await = false)
    (hc : e.chkStatus = false) : OpOutcome s (dispatchArm e s) := by
  rcases dispatchArm_cases e s with ⟨-, h⟩ | ⟨-, -, h⟩ | ⟨-, h, -⟩
  · rw [h]
    exact .badop
  · rw [h, hc]
    exact .transmit
  · rw [ha] at h
    cases h

theorem dispatchArm_outcome_of_await (e : DispatchEntry) (s : State) (ha : e.await = true)
    (hl : e.chkStatus = true → e.rspLen.getD s.expLen = cfg.setRspLen) : OpOutcome s (dispatchArm e s) := by
  rcases dispatchArm_cases e s with ⟨-, h⟩ | ⟨-, h, -⟩ | ⟨-, -, h⟩
  · rw [h]
    exact .badop
  · rw [ha] at h
    cases h
  · rw [h]
    exact .exchange _ _ hl

theorem opBody_outcome (i : Instr) (s : State) (hi : i ∈ ordinaryOps) : OpOutcome s (opBody i s) := by
  fin_cases hi
  · exact .transmit
  · exact .receive
  · exact .exchange false s.expLen nofun
  · exact dispatchArm_outcome_of_no_await entryKb s rfl rfl
  · exact dispatchArm_outcome_of_no_await entryMs s rfl rfl
  · exact dispatchArm_outcome_of_await entryGet s rfl nofun
  · exact dispatchArm_outcome_of_await entrySet s rfl fun _ => rfl
  · exact .badop
  · exact .format _ _ _
  · exact .format _ _ _
  · exact .clear
  all_goals exact .badop

end Sys2Proof.Machine
end

section
/-! SUPPORT. How `Inv` is assembled: its lasting part, the result registers, and what the running engine adds. -/

namespace Sys2Proof.Machine

/-- The part of `Inv` that speaks neither of the phase nor of the result. -/
structure Lasting (s : State) : Prop where
  txBufWf : Memory.wf cfg.txBufCells s.txBuf = true
  rxBufWf : Memory.wf cfg.rxBufCells s.rxBuf = true
  seenZero : s.errSeen.getLsbD 0 = false
  txIdxMax : s.txIdx.toNat ≤ 261
  rxNeedMax : s.rxNeed.toNat ≤ 261
  rxIdxLe : s.rxIdx.toNat ≤ s.rxNeed.toNat
  latch : s.opLatch.chkStatus = true → s.opLatch.await = true

/-- The result registers are as R111 (c) clears them. -/
structure NoResult (s : State) : Prop where
  result : s.result = .none
  errCode : s.errCode = .none
  errStatus : s.errStatus = 0
  checks : s.checks = .zero

/-- The part of `Inv` that phase `TX` adds. -/
structure SendingPart (s : State) : Prop where
  within : s.txIdx.toNat ≤ s.txLen.toNat + 5
  sumIs : ∀ f, operandFrame s = some f → s.txSum = sum8 (f.take s.txIdx.toNat)
  latchLen : s.opLatch.chkStatus = true → s.expLen = cfg.setRspLen
  awaitCmd : s.opLatch.await = true → s.expCmd = s.txCmd

/-- The part of `Inv` that phase `RX` adds. -/
structure ReceivingPart (s : State) : Prop where
  needIs : s.rxNeed = s.expLen.setWidth 9 + 6
  within : s.rxIdx.toNat < s.rxNeed.toNat
  cells : ∃ bs, memRange s.rxBuf 0 s.rxIdx.toNat = some bs ∧ s.rxSum = sum8 bs
  latchLen : s.opLatch.chkStatus = true → s.expLen = cfg.setRspLen

/-! ### `Inv` taken apart -/

theorem Inv.lasting {s : State} (h : Inv s) : Lasting s := { h with }

/-- Until an operation ends there is no result (R40 to R43). -/
theorem Inv.noResult {s : State} (h : Inv s) (hp : s.phase ≠ .done) : NoResult s := by
  have hr : s.result = .none := h.resultPhase.2 hp
  have he : s.errCode = .none := Decidable.of_not_not fun hne => by
    have := h.errCodeResult.1 hne
    simp [hr] at this
  have hs : s.errStatus = 0 := Decidable.of_not_not fun hne => by
    have := h.errStatusCode.1 hne
    simp [he] at this
  exact ⟨hr, he, hs, h.checksClear hp⟩

theorem Inv.sendingPart {s : State} (h : Inv s) (hp : s.phase = .tx) : SendingPart s where
  within := h.txWithin hp
  sumIs := h.txSumIs hp
  latchLen hc := h.latchLen hc (.inl hp)
  awaitCmd ha := h.awaitCmd ha hp

theorem Inv.receivingPart {s : State} (h : Inv s) (hp : s.phase = .rx) : ReceivingPart s where
  needIs := h.rxNeedIs hp
  within := h.rxWithin hp
  cells := h.rxCells hp
  latchLen hc := h.latchLen hc (.inr hp)

/-! ### `Inv` put together, phase by phase -/

/-- Before an operation ends, `Inv` is its lasting part, no result, and what the running engine adds. -/
theorem Lasting.inv {s : State} (h : Lasting s) (r : NoResult s) (hd : s.phase ≠ .done)
    (htx : s.phase = .tx → SendingPart s) (hrx : s.phase = .rx → ReceivingPart s) : Inv s :=
  { h with
    resultPhase := ⟨fun _ => hd, fun _ => r.result⟩
    errCodeResult := by simp [r.result, r.errCode]
    errStatusCode := by simp [r.errCode, r.errStatus]
    seenLatest := fun hne => absurd r.errCode hne
    checksClear := fun _ => r.checks
    txWithin := fun hp => (htx hp).within
    txSumIs := fun hp => (htx hp).sumIs
    rxNeedIs := fun hp => (hrx hp).needIs
    rxWithin := fun hp => (hrx hp).within
    rxCells := fun hp => (hrx hp).cells
    latchLen := fun hc hp => hp.elim (fun hp => (htx hp).latchLen hc) (fun hp => (hrx hp).latchLen hc)
    awaitCmd := fun ha hp => (htx hp).awaitCmd ha }

theorem Lasting.inv_of_idle {s : State} (h : Lasting s) (r : NoResult s) (hp : s.phase = .idle) : Inv s :=
  h.inv r (by simp [hp]) (by simp [hp]) (by simp [hp])

theorem Lasting.inv_of_tx {s : State} (h : Lasting s) (r : NoResult s) (hp : s.phase = .tx) (p : SendingPart s) : Inv s :=
  h.inv r (by simp [hp]) (fun _ => p) (by simp [hp])

theorem Lasting.inv_of_rx {s : State} (h : Lasting s) (r : NoResult s) (hp : s.phase = .rx) (p : ReceivingPart s) :
    Inv s :=
  h.inv r (by simp [hp]) (by simp [hp]) (fun _ => p)

/-- Once an operation has ended, `Inv` is its lasting part and the agreement of the result registers. -/
theorem Lasting.inv_of_done {s : State} (h : Lasting s) (hp : s.phase = .done) (hr : s.result ≠ .none)
    (hcode : s.errCode ≠ .none ↔ s.result = .err) (hstatus : s.errStatus ≠ 0 ↔ s.errCode = .rejected)
    (hseen : s.errCode ≠ .none → s.errSeen.getLsbD s.errCode.code.toNat = true) : Inv s :=
  { h with
    resultPhase := by simp [hr, hp]
    errCodeResult := hcode
    errStatusCode := hstatus
    seenLatest := hseen
    checksClear := by simp [hp]
    txWithin := by simp [hp]
    txSumIs := by simp [hp]
    rxNeedIs := by simp [hp]
    rxWithin := by simp [hp]
    rxCells := by simp [hp]
    latchLen := by simp [hp]
    awaitCmd := by simp [hp] }

/-- An operation that ends well leaves no cause behind (R42, R43). -/
theorem Lasting.inv_finishOk {s : State} (h : Lasting s) (he : s.errCode = .none) (hs : s.errStatus = 0) :
    Inv (finishOk s) :=
  Lasting.inv_of_done { h with } rfl nofun (by simp [he]) (by simp [he, hs]) (fun hne => absurd he hne)

theorem seenBit_getLsbD_zero (e : ErrCode) (he : e ≠ .none) : e.seenBit.getLsbD 0 = false := by
  cases e with
  | none => exact absurd rfl he
  | _ => rfl

theorem seenBit_getLsbD_code (e : ErrCode) : e.seenBit.getLsbD e.code.toNat = true := by
  cases e <;> rfl

/-- Whatever ends in an error ends in a sound state (R240). -/
theorem Lasting.inv_raise {s : State} (h : Lasting s) {e : ErrCode} {info : Byte} (he : e ≠ .none)
    (hi : e = .rejected → info ≠ 0) : Inv (raise e info s) := by
  have hzero : (raise e info s).errSeen.getLsbD 0 = false := by
    rw [raise_errSeen, BitVec.getLsbD_or, h.seenZero, seenBit_getLsbD_zero e he]
    rfl
  have hstatus : (raise e info s).errStatus ≠ 0 ↔ e = .rejected := by
    by_cases hr : e = .rejected
    · simpa [hr] using hi hr
    · simp [hr]
  exact Lasting.inv_of_done { h with seenZero := hzero } rfl nofun (by simp [he]) hstatus
    (by simp [seenBit_getLsbD_code])

end Sys2Proof.Machine
end

section
/-! SUPPORT. Every shared operation keeps `Inv`. -/

namespace Sys2Proof.Machine

/-! ### Phases begin -/

theorem Lasting.inv_beginTransmit {s : State} (h : Lasting s) (r : NoResult s)
    (hl : s.opLatch.chkStatus = true → s.expLen = cfg.setRspLen) (hc : s.opLatch.await = true → s.expCmd = s.txCmd) :
    Inv (beginTransmit s) :=
  Lasting.inv_of_tx { h with txIdxMax := Nat.zero_le _ } { r with } rfl
    { within := Nat.zero_le _, sumIs := fun _ _ => rfl, latchLen := hl, awaitCmd := hc }

/-- R155: the longest response has `255 + 6` bytes. -/
theorem rxNeed_toNat (len : Byte) : (len.setWidth 9 + 6 : Count).toNat = len.toNat + 6 := by
  bv_omega

theorem Lasting.inv_beginReceive {s : State} (h : Lasting s) (r : NoResult s)
    (hl : s.opLatch.chkStatus = true → s.expLen = cfg.setRspLen) : Inv (beginReceive s) := by
  have hn : (beginReceive s).rxNeed.toNat = s.expLen.toNat + 6 := rxNeed_toNat s.expLen
  have hlt := s.expLen.isLt
  refine Lasting.inv_of_rx { h with rxNeedMax := by omega, rxIdxLe := Nat.zero_le _ } { r with } rfl
    { needIs := rfl, within := ?_, cells := ⟨[], rfl, rfl⟩, latchLen := hl }
  rw [hn]
  exact Nat.succ_pos _

/-! ### The operations -/

theorem Lasting.inv_of_outcome {s t : State} (h : Lasting s) (r : NoResult s) (ht : OpOutcome s t) : Inv t := by
  cases ht with
  | transmit => exact Lasting.inv_beginTransmit { h with latch := nofun } { r with } nofun nofun
  | exchange chk len hl => exact Lasting.inv_beginTransmit { h with latch := fun _ => rfl } { r with } hl fun _ => rfl
  | receive => exact Lasting.inv_beginReceive { h with latch := nofun } { r with } nofun
  | format cmd len bs =>
    exact Lasting.inv_finishOk { h with txBufWf := memWriteList_wf _ bs _ 0 h.txBufWf } r.errCode r.errStatus
  | clear => exact Lasting.inv_of_idle { h with } { r with } rfl
  | badop => exact h.inv_raise nofun nofun

theorem inv_opBody {s : State} (h : Inv s) (i : Instr) (hi : i ∈ ordinaryOps) : Inv (opBody i (clearResults s)) :=
  Lasting.inv_of_outcome (s := clearResults s) { h with } ⟨rfl, rfl, rfl, rfl⟩ (opBody_outcome i _ hi)

/-! ### The transmit engine -/

/-- Before the checksum, the byte sent is that of the frame in the operand registers, whatever `TX_SUM` is. -/
theorem frameByte_eq_getElem (s : State) (f : List Byte) (h : operandFrame s = some f) (k : Nat)
    (hk : k < s.txLen.toNat + 5) : frameByte s k = f[k]? := by
  have hs : frameByte s k = frameByte (sentBytes s f k) k := by
    have hk' : k < (sentBytes s f k).txLen.toNat + 5 := hk
    rw [frameByte, frameByte, if_pos hk, if_pos hk']
    rfl
  rw [hs, frameByte_sentBytes s f h k (by omega)]

/-- One more byte sent is one more byte summed (R33). -/
theorem sum8_take_succ (f : List Byte) (k : Nat) (b : Byte) (hb : f[k]? = some b) :
    sum8 (f.take (k + 1)) = sum8 (f.take k) + b := by
  rw [List.take_add_one, hb]
  exact sum8_append_one _ b

theorem count_succ (n : Count) (h : n.toNat ≤ 261) : (n + 1).toNat = n.toNat + 1 := by
  rw [BitVec.toNat_add]
  exact Nat.mod_eq_of_lt (by simp; omega)

theorem inv_transmitStep {s t : State} (h : Inv s) (ht : transmitStep s = .next t) : Inv t := by
  rcases transmitStep_cases s t ht with ⟨-, rfl⟩ | ⟨hp, b, hb, hcase⟩
  · exact h
  · have hr := h.noResult (by simp [hp])
    have part := h.sendingPart hp
    have hlen := s.txLen.isLt
    have hsucc := count_succ s.txIdx h.txIdxMax
    have hmax : (s.txIdx + 1).toNat ≤ 261 := by have := part.within; omega
    have hlast : Lasting { s with txIdx := s.txIdx + 1 } := { h with txIdxMax := hmax }
    rcases hcase with ⟨hlt, rfl⟩ | ⟨-, -, rfl⟩ | ⟨-, -, rfl⟩
    · have hin : (s.txIdx + 1).toNat ≤ s.txLen.toNat + 5 := by omega
      refine Lasting.inv_of_tx { hlast with } { hr with } hp { part with within := hin, sumIs := fun f hf => ?_ }
      have hb' := (frameByte_eq_getElem s f hf _ hlt).symm.trans hb
      show s.txSum + b = sum8 (f.take (s.txIdx + 1).toNat)
      rw [hsucc, sum8_take_succ f _ b hb', part.sumIs f hf]
    · show Inv (finishOk (flushTx { s with link := s.link ++ [.txByte b], txIdx := s.txIdx + 1 }))
      exact Lasting.inv_finishOk { hlast with } hr.errCode hr.errStatus
    · show Inv (beginReceive (flushTx { s with link := s.link ++ [.txByte b], txIdx := s.txIdx + 1 }))
      exact Lasting.inv_beginReceive { hlast with } { hr with } part.latchLen

/-! ### The receive engine -/

theorem Lasting.inv_verdict {s : State} (h : Lasting s) (he : s.errCode = .none) (hs : s.errStatus = 0) :
    Inv (verdict s) := by
  have hc : Lasting { s with checks := checksAtVerdict s } := { h with }
  rcases verdict_cases s with ⟨e, info, hv, hne, -, hi⟩ | hv <;> rw [hv]
  · exact hc.inv_raise hne hi
  · exact hc.inv_finishOk he hs

theorem memRange_memWrite_succ (m : Mem) (n : Nat) (bs : List Byte) (b : Byte)
    (hw : Memory.wf cfg.rxBufCells m = true) (hr : memRange m 0 n = some bs) (hn : n < 261) :
    memRange (memWrite cfg.rxBufCells m n b) 0 (n + 1) = some (bs ++ [b]) :=
  memRange_memWriteList cfg.rxBufCells m n bs [b] hw hr hn

theorem inv_receiveStep {s : State} (h : Inv s) : Inv (receiveStep s) := by
  rcases receiveStep_cases s with hs | ⟨hp, b, rest, -, hcase⟩
  · rw [hs]
    exact h
  · have hr := h.noResult (by simp [hp])
    have part := h.receivingPart hp
    have hmax := h.rxNeedMax
    have hlt := part.within
    have hsucc := count_succ s.rxIdx (by omega)
    have hle : (s.rxIdx + 1).toNat ≤ s.rxNeed.toNat := by omega
    have hlast : Lasting { s with
        rxBuf := memWrite cfg.rxBufCells s.rxBuf s.rxIdx.toNat b, rxIdx := s.rxIdx + 1 } :=
      { h with rxBufWf := memWrite_wf _ _ _ b h.rxBufWf, rxIdxLe := hle }
    rcases hcase with ⟨hin, hs⟩ | ⟨-, hs⟩ <;> rw [hs]
    · have hmissing : (s.rxIdx + 1).toNat < s.rxNeed.toNat := by omega
      obtain ⟨bs, hbs, hsum⟩ := part.cells
      refine Lasting.inv_of_rx { hlast with } { hr with } hp
        { part with within := hmissing, cells := ⟨bs ++ [b], ?_, ?_⟩ }
      · show memRange _ 0 (s.rxIdx + 1).toNat = _
        rw [hsucc]
        exact memRange_memWrite_succ _ _ bs b h.rxBufWf hbs (by omega)
      · show s.rxSum + b = _
        rw [hsum, sum8_append_one]
    · exact Lasting.inv_verdict { hlast with } hr.errCode hr.errStatus

/-! ### The host's accesses, and reset -/

/-- `t` is `s` but for the registers and cells a host can write (R45). -/
def OperandsOnly (s t : State) : Prop :=
  t = { s with
    txAddr := t.txAddr, txCmd := t.txCmd, txLen := t.txLen, txBuf := t.txBuf, expCmd := t.expCmd, expLen := t.expLen
    kbMod := t.kbMod, kbCnt := t.kbCnt, kbKey := t.kbKey
    msDx := t.msDx, msDy := t.msDy, msBtn := t.msBtn, msWheel := t.msWheel }

theorem writeReg_operandsOnly (no : Byte) (idx : Nat) (v : Half) (s : State) :
    OperandsOnly s (writeReg no idx v s) := by
  unfold writeReg
  split <;> rfl

theorem writeReg_txBuf_wf (no : Byte) (idx : Nat) (v : Half) (s : State)
    (h : Memory.wf cfg.txBufCells s.txBuf = true) : Memory.wf cfg.txBufCells (writeReg no idx v s).txBuf = true := by
  unfold writeReg
  split
  case h_13 => exact memWrite_wf _ _ _ _ h
  all_goals exact h

/-- While no engine runs, `Inv` rests on no operand but the form of `TX_BUF`. -/
theorem Inv.of_operandsOnly {s t : State} (h : Inv s) (hr : Ready s) (ht : OperandsOnly s t)
    (hw : Memory.wf cfg.txBufCells t.txBuf = true) : Inv t := by
  have htx : s.phase ≠ .tx := by rcases hr with hp | hp <;> simp [hp]
  have hrx : s.phase ≠ .rx := by rcases hr with hp | hp <;> simp [hp]
  rw [ht]
  exact
    { h with
      txBufWf := hw
      txWithin := fun hp => absurd hp htx
      txSumIs := fun hp => absurd hp htx
      rxNeedIs := fun hp => absurd hp hrx
      latchLen := fun _ hp => (hp.elim htx hrx).elim
      awaitCmd := fun _ hp => absurd hp htx }

theorem inv_writeReg {s : State} (h : Inv s) (hr : Ready s) (no : Byte) (idx : Nat) (v : Half) :
    Inv (writeReg no idx v s) :=
  h.of_operandsOnly hr (writeReg_operandsOnly no idx v s) (writeReg_txBuf_wf no idx v s h.txBufWf)

theorem inv_hostRead {s : State} (h : Inv s) (no : Byte) (idx : Nat) : Inv (hostRead no idx s) := by
  unfold hostRead
  split <;> exact { h with }

theorem inv_resetCodec (s : State) : Inv (resetCodec s) :=
  Lasting.inv_of_idle ⟨rfl, rfl, BitVec.getLsbD_zero, Nat.zero_le _, Nat.zero_le _, Nat.zero_le _, nofun⟩
    ⟨rfl, rfl, rfl, rfl⟩ rfl

theorem inv_txFailStep {s : State} (h : Inv s) : Inv (txFailStep s) := by
  unfold txFailStep
  split
  · exact h.lasting.inv_raise nofun nofun
  · exact h

theorem inv_timeoutStep {s : State} (h : Inv s) : Inv (timeoutStep s) := by
  unfold timeoutStep
  split
  · exact h.lasting.inv_raise nofun nofun
  · exact h

theorem inv_keptByEvents : KeptByEvents Inv where
  accepted _ i h hi _ := inv_opBody h i hi
  transmit _ _ h ht := inv_transmitStep h ht
  receive _ h := inv_receiveStep h
  arrive _ _ h := { h with }
  reset s _ := inv_resetCodec s
  drop _ h := { h with }
  write _ no idx v h hr := inv_writeReg h hr no idx v
  read _ no idx h := inv_hostRead h no idx
  fail _ h := inv_txFailStep h
  timeout _ h := inv_timeoutStep h
  store _ _ h := { h with }
  power _ h := { h with }

/-- Settles O51: `Inv` is kept by every operation a step is made of. -/
theorem everyStepKeepsTheStateSound : Obligations.EveryStepKeepsTheStateSound := by
  unfold Obligations.EveryStepKeepsTheStateSound
  exact fun s t hs h => step_keeps inv_keptByEvents s t hs h

end Sys2Proof.Machine
end

section
/-! SUPPORT. What every instruction but `SOFT_RESET` keeps, and with it the frame of the host's operands and of the device
(spec/10_state.md R21, R27, R28, R52) and the cumulative error register (R44). -/

namespace Sys2Proof.Machine

/-- A property of states that every shared operation but reset keeps. -/
structure KeptUnlessReset (P : State → Prop) : Prop where
  accepted : ∀ s t, P s → OpOutcome (clearResults s) t → P t
  transmit : ∀ s t, P s → transmitStep s = .next t → P t
  receive : ∀ s, P s → P (receiveStep s)
  arrive : ∀ s bytes, P s → P (arriveBytes bytes s)

/-- What is kept by reset too is kept by every instruction. -/
theorem KeptUnlessReset.kept {P : State → Prop} (k : KeptUnlessReset P) (hreset : ∀ s, P s → P (resetCodec s)) :
    Kept P :=
  { k with
    accepted := fun s i hs hi _ => k.accepted s _ hs (opBody_outcome i _ hi)
    reset := hreset }

theorem exec_keeps_unless_reset {P : State → Prop} (k : KeptUnlessReset P) (i : Instr) (s t : State) (hs : P s)
    (hi : i ≠ .softReset) (h : exec i s = .next t) : P t := by
  rcases instr_cases i with hr | hd | ho | he
  · rw [exec_of_isRequestFrame i s hr] at h
    exact frameOut_keeps k.transmit _ _ _ hs h
  · rw [exec_of_isDeviceFrame i s hd] at h
    cases h
    exact receiveFrame_keeps k.arrive k.receive _ _ hs
  · rw [exec_of_mem_ordinaryOps i s ho] at h
    cases h
    cases hb : s.phase.busy with
    | true =>
      rw [accept_of_busy _ s hb]
      exact hs
    | false =>
      rw [accept_of_ready _ s (ready_of_not_busy s hb)]
      exact k.accepted s _ hs (opBody_outcome i _ ho)
  · exact absurd he hi

/-! ### The host's operands and the device -/

abbrev HostOperands := Byte × Byte × Byte × Vector Byte 6 × Half × Half × Byte × Byte

abbrev Surroundings := Vector Byte 50 × BitVec 32 × Half × List Input

/-- `TX_ADDR` and the operands of the formatters (R21, R27, R28). -/
def hostOperands (s : State) : HostOperands :=
  (s.txAddr, s.kbMod, s.kbCnt, s.kbKey, s.msDx, s.msDy, s.msBtn, s.msWheel)

/-- The device's block and line speed, what the host last read, and the inputs to come (R52, R274; log entries 1, 22). -/
def surroundings (s : State) : Surroundings :=
  (s.devBlock, s.devBaud, s.hostData, s.inputs)

/-- The fields that no shared operation but reset writes. -/
def untouched (s : State) : HostOperands × Surroundings := (hostOperands s, surroundings s)

theorem verdict_untouched (s : State) : untouched (verdict s) = untouched s := by
  rcases verdict_cases s with ⟨e, info, hv, -⟩ | hv <;> rw [hv] <;> rfl

theorem receiveStep_untouched (s : State) : untouched (receiveStep s) = untouched s := by
  rcases receiveStep_cases s with hs | ⟨-, b, rest, -, ⟨-, hs⟩ | ⟨-, hs⟩⟩ <;> rw [hs]
  · rfl
  · exact verdict_untouched _

theorem transmitStep_untouched (s t : State) (h : transmitStep s = .next t) : untouched t = untouched s := by
  rcases transmitStep_cases s t h with ⟨-, rfl⟩ | ⟨-, b, -, ⟨-, rfl⟩ | ⟨-, -, rfl⟩ | ⟨-, -, rfl⟩⟩ <;> rfl

theorem OpOutcome.untouched_eq {s t : State} (h : OpOutcome s t) : untouched t = untouched s := by
  cases h <;> rfl

/-- A property of the untouched fields alone is kept. -/
theorem keptUnlessReset_untouched (Q : HostOperands × Surroundings → Prop) :
    KeptUnlessReset fun t => Q (untouched t) where
  accepted s t hs ht := by
    have he : untouched t = untouched s := ht.untouched_eq
    rwa [he]
  transmit s t hs ht := by rwa [transmitStep_untouched s t ht]
  receive s hs := by rwa [receiveStep_untouched s]
  arrive _ _ hs := hs

/-- Settles O57: the shared operations leave these fields alone, and reset those that are not registers. -/
theorem hostOperandsAndDeviceAreLeftAlone : Obligations.HostOperandsAndDeviceAreLeftAlone := by
  unfold Obligations.HostOperandsAndDeviceAreLeftAlone
  intro i s t h
  have hop (hi : i ≠ .softReset) : hostOperands t = hostOperands s :=
    exec_keeps_unless_reset (keptUnlessReset_untouched fun u => u.1 = hostOperands s) i s t rfl hi h
  have hsur : surroundings t = surroundings s :=
    exec_keeps ((keptUnlessReset_untouched fun u => u.2 = surroundings s).kept fun _ hs => hs) i s t rfl h
  simp only [hostOperands, surroundings, Prod.mk.injEq] at hop hsur
  exact ⟨hop, hsur⟩

/-! ### The cumulative error register -/

theorem raise_keeps_cause (k : Nat) (e : ErrCode) (info : Byte) (s : State) (h : s.errSeen.getLsbD k = true) :
    (raise e info s).errSeen.getLsbD k = true := by
  rw [raise_errSeen, BitVec.getLsbD_or, h, Bool.true_or]

theorem verdict_keeps_cause (k : Nat) (s : State) (h : s.errSeen.getLsbD k = true) :
    (verdict s).errSeen.getLsbD k = true := by
  rcases verdict_cases s with ⟨e, info, hv, -⟩ | hv <;> rw [hv]
  · exact raise_keeps_cause k e info { s with checks := checksAtVerdict s } h
  · exact h

theorem OpOutcome.keeps_cause {s t : State} (ht : OpOutcome s t) (k : Nat) (h : s.errSeen.getLsbD k = true) :
    t.errSeen.getLsbD k = true := by
  cases ht
  case badop => exact raise_keeps_cause k _ _ _ h
  all_goals exact h

theorem keptUnlessReset_cause (k : Nat) : KeptUnlessReset fun s => s.errSeen.getLsbD k = true where
  accepted _ _ h ht := ht.keeps_cause k h
  transmit s t h ht := by
    rcases transmitStep_cases s t ht with ⟨-, rfl⟩ | ⟨-, b, -, ⟨-, rfl⟩ | ⟨-, -, rfl⟩ | ⟨-, -, rfl⟩⟩ <;> exact h
  receive s h := by
    rcases receiveStep_cases s with hs | ⟨-, b, rest, -, ⟨-, hs⟩ | ⟨-, hs⟩⟩ <;> rw [hs]
    · exact h
    · exact h
    · exact verdict_keeps_cause k { s with rxQueue := _, rxTaken := _, rxBuf := _, rxIdx := _ } h
  arrive _ _ h := h

theorem writeReg_errSeen (no : Byte) (idx : Nat) (v : Half) (s : State) : (writeReg no idx v s).errSeen = s.errSeen := by
  rw [writeReg_operandsOnly no idx v s]

theorem hostWrite_errSeen (no : Byte) (idx : Nat) (v : Half) (s : State) :
    (hostWrite no idx v s).errSeen = s.errSeen := by
  unfold hostWrite
  split
  · rfl
  · exact writeReg_errSeen no idx v s

theorem hostRead_errSeen (no : Byte) (idx : Nat) (s : State) : (hostRead no idx s).errSeen = s.errSeen := by
  unfold hostRead
  split <;> rfl

/-- No event but hardware reset takes a recorded cause back. -/
theorem eventStep_keeps_cause (k : Nat) (e : Input) (s t : State) (he : e ≠ .rst) (hk : s.errSeen.getLsbD k = true)
    (h : eventStep e s = .next t) : t.errSeen.getLsbD k = true := by
  have kept := keptUnlessReset_cause k
  cases e with
  | txReady => exact kept.transmit s t hk h
  | rst => exact absurd rfl he
  | wr no idx v =>
    cases h
    rwa [hostWrite_errSeen]
  | rd no idx =>
    cases h
    rwa [hostRead_errSeen]
  | link bytes =>
    cases h
    exact receiveFrame_keeps kept.arrive kept.receive bytes s hk
  | rxByte =>
    cases h
    exact kept.receive s hk
  | txFail =>
    cases h
    unfold txFailStep
    split
    · exact raise_keeps_cause k _ _ s hk
    · exact hk
  | rxTimeout =>
    cases h
    unfold timeoutStep
    split
    · exact raise_keeps_cause k _ _ s hk
    · exact hk
  | _ =>
    cases h
    exact hk

/-- R110: only the code 0xF issues `SOFT_RESET`. -/
theorem decodeOp_ne_softReset (op : BitVec 4) (c : Byte) (h : op ≠ 0xF) : decodeOp op c ≠ .softReset := by
  unfold decodeOp
  split
  case h_15 hop => exact absurd (BitVec.eq_of_toNat_eq hop) h
  case h_4 =>
    repeat' split
    all_goals nofun
  all_goals nofun

/-- Settles O55: by the kind of the next input, and without a reset every operation keeps the bit. -/
theorem recordedCausesStay : Obligations.RecordedCausesStay := by
  unfold Obligations.RecordedCausesStay
  intro s t k h hk hrst hsoft
  have kept := keptUnlessReset_cause k
  cases hin : s.inputs with
  | nil =>
    rw [step_of_no_input s hin] at h
    cases h
    exact hk
  | cons e rest =>
    by_cases hw : ∃ idx v, e = .wr 0x00 idx v
    · obtain ⟨idx, v, rfl⟩ := hw
      rw [step_of_issue s idx v rest hin] at h
      exact exec_keeps_unless_reset kept _ (dropInput s) t hk (decodeOp_ne_softReset _ _ (hsoft idx v rest hin)) h
    by_cases hl : ∃ bytes, e = .link bytes
    · obtain ⟨bytes, rfl⟩ := hl
      rcases step_of_link s bytes rest hin with ⟨b, hs⟩ | ⟨b, hs⟩ <;> rw [hs] at h
      · exact frameOut_keeps kept.transmit b (dropInput s) t hk h
      · cases h
        exact receiveFrame_keeps kept.arrive kept.receive b (dropInput s) hk
    · rw [step_of_event s e rest hin (fun idx v he => hw ⟨idx, v, he⟩) (fun bytes he => hl ⟨bytes, he⟩)] at h
      exact eventStep_keeps_cause k e (dropInput s) t (fun he => hrst rest (he ▸ hin)) hk h

end Sys2Proof.Machine
end

section
/-! SUPPORT. The phase after each shared operation, and the table of spec/42_dispatch.md R190. -/

namespace Sys2Proof.Machine

/-! ### The operations -/

/-- R182: a command of the table selects the arm of its entry. -/
theorem opBody_dispatch_of_listed (c : Byte) (e : DispatchEntry) (s : State) (h : dispatchEntry c = some e) :
    opBody (decodeOp 0x4 c) s = dispatchArm e s := by
  unfold dispatchEntry at h
  repeat' split at h
  all_goals cases h
  all_goals simp_all [decodeOp, opBody]

/-- R182: no other command selects an arm. -/
theorem decodeOp_dispatch_of_unlisted (c : Byte) (h : dispatchEntry c = none) : decodeOp 0x4 c = .dispatchUnlisted := by
  unfold dispatchEntry at h
  repeat' split at h
  all_goals simp_all [decodeOp]

theorem dispatchArm_phase (e : DispatchEntry) (s : State) :
    (dispatchArm e s).phase = if s.txLen = e.reqLen then .tx else .done := by
  rcases dispatchArm_cases e s with ⟨hl, h⟩ | ⟨hl, -, h⟩ | ⟨hl, -, h⟩ <;> rw [h]
  · rw [if_neg hl]
    rfl
  all_goals rw [if_pos hl]

/-- R190 does not tell phase `DONE` from `IDLE` when an operation is issued. -/
theorem phaseAfterOp_of_ready (s : State) (hr : Ready s) (code : BitVec 4) :
    phaseAfterOp s code = phaseAfterOp { s with phase := .idle } code := by
  rcases hr with h | h <;> rw [phaseAfterOp, phaseAfterOp, h]

theorem phaseAfterOp_dispatch_of_listed (s : State) (e : DispatchEntry) (hr : Ready s)
    (h : dispatchEntry s.txCmd = some e) : phaseAfterOp s 0x4 = if s.txLen = e.reqLen then .tx else .done := by
  rcases hr with hp | hp <;> simp [phaseAfterOp, hp, h]

theorem phaseAfterOp_dispatch_of_unlisted (s : State) (hr : Ready s) (h : dispatchEntry s.txCmd = none) :
    phaseAfterOp s 0x4 = .done := by
  rcases hr with hp | hp <;> simp [phaseAfterOp, hp, h]

/-- R190 for an operation accepted. -/
theorem opBody_phase (s : State) (hr : Ready s) (code : BitVec 4) (hc : code ≠ 0xF) :
    (opBody (decodeOp code s.txCmd) (clearResults s)).phase = phaseAfterOp s code := by
  by_cases h4 : code = 0x4
  · rw [h4]
    cases hd : dispatchEntry s.txCmd with
    | some e =>
      rw [opBody_dispatch_of_listed _ e _ hd, dispatchArm_phase, phaseAfterOp_dispatch_of_listed s e hr hd]
      rfl
    | none =>
      rw [decodeOp_dispatch_of_unlisted _ hd, phaseAfterOp_dispatch_of_unlisted s hr hd]
      rfl
  · rw [phaseAfterOp_of_ready s hr]
    fin_cases code
    pick_goal 5
    · exact absurd rfl h4
    pick_goal -1
    · exact absurd rfl hc
    all_goals rfl

/-- R190 for an operation issued. -/
theorem exec_decodeOp_phase (s t : State) (code : BitVec 4) (h : exec (decodeOp code s.txCmd) s = .next t) :
    t.phase = phaseAfterOp s code := by
  by_cases hc : code = 0xF
  · subst hc
    cases h
    rfl
  · have ho := (decodeOp_isOperation code s.txCmd).resolve_right (decodeOp_ne_softReset code _ hc)
    rw [exec_of_mem_ordinaryOps _ s ho] at h
    cases h
    cases hb : s.phase.busy with
    | false => rw [accept_of_ready _ s (ready_of_not_busy s hb), opBody_phase s (ready_of_not_busy s hb) code hc]
    | true =>
      rw [accept_of_busy _ s hb, phaseAfterOp, if_neg hc]
      revert hb
      cases s.phase <;> simp [Phase.busy]

/-! ### Frames on the link -/

/-- R190, R134: the phase after a frame has been sent in full. -/
theorem endFrame_phase (s : State) : (endFrame s).phase = if s.opLatch.await then .rx else .done := by
  cases ha : s.opLatch.await with
  | true =>
    rw [endFrame_await s ha]
    rfl
  | false =>
    rw [endFrame_done s ha]
    rfl

theorem frameOut_phase (bytes : List Byte) (s t : State) (h : frameOut bytes s = .next t) :
    t.phase = s.phase ∨ (s.phase = .tx ∧ t.phase = if s.opLatch.await then .rx else .done) := by
  rcases frameOut_cases bytes s with e | ⟨e, -⟩ | ⟨e, hp, hi, hs, hf⟩ <;> rw [e] at h
  · cases h
    exact .inl rfl
  · cases h
  · rw [transmitMany_frame s bytes hp hi hs hf] at h
    cases h
    exact .inr ⟨hp, endFrame_phase _⟩

theorem receiveStep_phase (s : State) :
    (receiveStep s).phase = s.phase ∨ (s.phase = .rx ∧ (receiveStep s).phase = .done) := by
  rcases receiveStep_cases s with hs | ⟨hp, b, rest, -, ⟨-, hs⟩ | ⟨-, hs⟩⟩ <;> rw [hs]
  · exact .inl rfl
  · exact .inl rfl
  · exact .inr ⟨hp, verdict_phase _⟩

theorem receiveFrame_phase (bytes : List Byte) (s : State) :
    (receiveFrame bytes s).phase = s.phase ∨ (s.phase = .rx ∧ (receiveFrame bytes s).phase = .done) := by
  refine receiveFrame_keeps (P := fun t => t.phase = s.phase ∨ (s.phase = .rx ∧ t.phase = .done))
    (fun _ _ h => h) (fun t h => ?_) bytes s (.inl rfl)
  rcases receiveStep_phase t with ht | ⟨htp, ht⟩ <;> rw [ht]
  · exact h
  · rcases h with h | ⟨-, h⟩
    · exact .inr ⟨h ▸ htp, rfl⟩
    · rw [htp] at h
      cases h

/-! ### The other events -/

theorem writeReg_phase (no : Byte) (idx : Nat) (v : Half) (s : State) : (writeReg no idx v s).phase = s.phase := by
  rw [writeReg_operandsOnly no idx v s]

theorem hostWrite_phase (no : Byte) (idx : Nat) (v : Half) (s : State) : (hostWrite no idx v s).phase = s.phase := by
  unfold hostWrite
  split
  · rfl
  · exact writeReg_phase no idx v s

theorem hostRead_phase (no : Byte) (idx : Nat) (s : State) : (hostRead no idx s).phase = s.phase := by
  unfold hostRead
  split <;> rfl

/-- R190: readiness ends a transmit phase at the checksum. -/
theorem transmitStep_phase (s t : State) (h : transmitStep s = .next t) : t.phase = phaseAfterEvent s .txReady := by
  rcases transmitStep_cases s t h with
      ⟨hp, rfl⟩ | ⟨hp, b, -, ⟨hlt, rfl⟩ | ⟨he, ha, rfl⟩ | ⟨he, ha, rfl⟩⟩ <;>
    simp only [phaseAfterEvent]
  · rw [if_neg (fun hc => hp hc.1)]
  · rw [if_neg (fun hc => absurd hc.2 (Nat.ne_of_lt hlt))]
  · rw [if_pos ⟨hp, he⟩, ha]
    rfl
  · rw [if_pos ⟨hp, he⟩, ha]
    rfl

/-- R190: a byte taken ends a receive phase where it is the last one needed. -/
theorem receiveStep_phaseAfterEvent (s : State) : (receiveStep s).phase = phaseAfterEvent s .rxByte := by
  simp only [phaseAfterEvent]
  by_cases hlast : s.phase = .rx ∧ s.rxQueue ≠ [] ∧ s.rxIdx.toNat + 1 = s.rxNeed.toNat
  · obtain ⟨hp, hq, hn⟩ := hlast
    obtain ⟨b, rest, hbr⟩ := List.exists_cons_of_ne_nil hq
    rw [if_pos ⟨hp, hq, hn⟩, receiveStep_last s b rest hp hbr hn, verdict_phase]
  · rw [if_neg hlast]
    rcases receiveStep_cases s with hs | ⟨hp, b, rest, hq, ⟨-, hs⟩ | ⟨hn, -⟩⟩
    · rw [hs]
    · rw [hs]
    · exact absurd ⟨hp, by simp [hq], hn⟩ hlast

theorem txFailStep_phase (s : State) : (txFailStep s).phase = phaseAfterEvent s .txFail := by
  unfold txFailStep
  simp only [phaseAfterEvent]
  split <;> rfl

theorem timeoutStep_phase (s : State) : (timeoutStep s).phase = phaseAfterEvent s .rxTimeout := by
  simp only [timeoutStep, receiving, phaseAfterEvent, Bool.and_eq_true, beq_iff_eq, decide_eq_true_eq]
  split <;> rfl

/-- R190 for every event that is neither a host write nor bytes on the link. -/
theorem eventStep_phase (s t : State) (e : Input) (hw : ∀ no idx v, e ≠ .wr no idx v) (hl : ∀ bytes, e ≠ .link bytes)
    (h : eventStep e s = .next t) : t.phase = phaseAfterEvent s e := by
  cases e with
  | wr no idx v => exact absurd rfl (hw no idx v)
  | link bytes => exact absurd rfl (hl bytes)
  | txReady => exact transmitStep_phase s t h
  | rd no idx =>
    cases h
    exact hostRead_phase no idx s
  | txFail =>
    cases h
    exact txFailStep_phase s
  | rxByte =>
    cases h
    exact receiveStep_phaseAfterEvent s
  | rxTimeout =>
    cases h
    exact timeoutStep_phase s
  | _ =>
    cases h
    rfl

/-- Settles O54: by the kind of the next input. -/
theorem phaseMovesByTheTable : Obligations.PhaseMovesByTheTable := by
  unfold Obligations.PhaseMovesByTheTable
  intro s t e rest hin h
  cases e with
  | wr no idx v =>
    by_cases hno : no = 0x00
    · subst hno
      rw [step_of_issue s idx v rest hin] at h
      exact exec_decodeOp_phase (dropInput s) t _ h
    · rw [step_of_register_write s rest no idx v hin hno] at h
      cases h
      simp only [if_neg hno, hostWrite_phase]
  | link bytes =>
    rcases step_of_link s bytes rest hin with ⟨b, hs⟩ | ⟨b, hs⟩ <;> rw [hs] at h
    · exact (frameOut_phase b (dropInput s) t h).imp_right .inl
    · cases h
      exact (receiveFrame_phase b (dropInput s)).imp_right .inr
  | _ =>
    rw [step_of_event s _ rest hin (by simp) (by simp)] at h
    exact eventStep_phase (dropInput s) t _ (by simp) (by simp) h

end Sys2Proof.Machine
end

section
/-! SUPPORT. The registers as a host sees them (spec/10_state.md R41, R45, R46), and their reset values (R260). -/

namespace Sys2Proof.Machine

/-! ### Packed registers -/

theorem toNat_append_eq {m n : Nat} (x : BitVec m) (y : BitVec n) : (x ++ y).toNat = x.toNat * 2 ^ n + y.toNat := by
  rw [BitVec.toNat_append, ← Nat.shiftLeft_add_eq_or_of_lt y.isLt, Nat.shiftLeft_eq]

theorem checks_bits_toNat (c : Checks) :
    c.bits.toNat = c.hdrOk.toNat + 2 * c.cmdOk.toNat + 4 * c.lenOk.toNat + 8 * c.sumOk.toNat := by
  simp only [Checks.bits, toNat_append_eq, BitVec.toNat_ofBool]
  omega

theorem opLatch_bits_toNat (l : OpLatch) : l.bits.toNat = l.await.toNat + 2 * l.chkStatus.toNat := by
  simp only [OpLatch.bits, toNat_append_eq, BitVec.toNat_ofBool]
  omega

theorem status_toNat (s : State) :
    s.status.toNat = s.checks.bits.toNat * 16 + s.result.code.toNat * 4 + s.phase.code.toNat := by
  simp only [State.status, toNat_append_eq]
  omega

/-- Settles O44: both registers are concatenations, each a sum of its parts in place. -/
theorem statusPacksChecksResultAndPhase : Obligations.StatusPacksChecksResultAndPhase := by
  unfold Obligations.StatusPacksChecksResultAndPhase
  exact fun s => ⟨status_toNat s, checks_bits_toNat s.checks, rfl⟩

/-! ### A host read as a step -/

theorem hostRead_onlyHostData (no : Byte) (idx : Nat) (s : State) :
    hostRead no idx s
      = { s with hostData := (hostRead no idx s).hostData, freeCtr := (hostRead no idx s).freeCtr } := by
  unfold hostRead
  split <;> rfl

/-- R46: where the spec gives the register or cell a value, the host gets it. -/
theorem hostData_hostRead {no : Byte} {idx : Nat} {s : State} {v : Half} (h : readReg s no idx = some v) :
    (hostRead no idx s).hostData = v := by
  simp [hostRead, h]

theorem readReg_kbKey (s : State) (idx : Nat) (h : idx < 6) :
    readReg s 0x20 idx = some (s.kbKey[idx].setWidth 16) := by
  show s.kbKey.toList[idx]?.map _ = _
  simp [h]

theorem readReg_txBuf (s : State) (idx : Nat) (b : Byte) (h : idx < 255) (hb : memRead s.txBuf idx = some b) :
    readReg s 0x40 idx = some (b.setWidth 16) := by
  show (if idx < 255 then (memRead s.txBuf idx).map _ else none) = _
  rw [if_pos h, hb]
  rfl

theorem readReg_rxBuf (s : State) (idx : Nat) (b : Byte) (h : idx < 261) (hb : memRead s.rxBuf idx = some b) :
    readReg s 0x80 idx = some (b.setWidth 16) := by
  show (if idx < 261 then (memRead s.rxBuf idx).map _ else none) = _
  rw [if_pos h, hb]
  rfl

theorem dropInput_eq {s : State} {e : Input} {rest : List Input} (h : s.inputs = e :: rest) :
    dropInput s = { s with inputs := rest } := by
  simp [dropInput, h]

theorem step_of_read (s : State) (rest : List Input) (no : Byte) (idx : Nat) (h : s.inputs = .rd no idx :: rest) :
    step s = .next (hostRead no idx { s with inputs := rest }) := by
  rw [step_of_event s _ rest h (by simp) (by simp), dropInput_eq h]
  rfl

/-- Settles O43: a step on a host read is `hostRead`; then by the number read. -/
theorem hostReadReturnsTheRegister : Obligations.HostReadReturnsTheRegister := by
  unfold Obligations.HostReadReturnsTheRegister
  intro s rest no idx h
  refine ⟨_, step_of_read s rest no idx h, hostRead_onlyHostData _ _ _, ?_⟩
  refine ⟨?_, ?_, ?_, ?_, ?_, ?_, ?_, ?_, ?_, ?_, ?_, ?_, ?_, ?_, ?_, ?_, ?_, ?_, ?_, ?_, ?opLatch, ?kbKey, ?txBuf, ?rxBuf⟩
  case opLatch =>
    rintro rfl
    have hv := hostData_hostRead (s := { s with inputs := rest }) (idx := idx)
      (show readReg _ 0x15 idx = some (s.opLatch.bits.setWidth 16) from rfl)
    rw [hv, BitVec.toNat_setWidth_of_le (by decide), opLatch_bits_toNat]
  case kbKey =>
    rintro rfl hidx
    exact hostData_hostRead (readReg_kbKey _ idx hidx)
  case txBuf =>
    rintro rfl b hidx hb
    exact hostData_hostRead (readReg_txBuf _ idx b hidx hb)
  case rxBuf =>
    rintro rfl b hidx hb
    exact hostData_hostRead (readReg_rxBuf _ idx b hidx hb)
  -- The twenty plain registers: `readReg` at a fixed number computes.
  all_goals
    rintro rfl
    exact hostData_hostRead rfl

/-! ### After reset -/

/-- Settles O27: `State.reset` is written out; only the key list is read by index. -/
theorem resetValuesOfTheRegisters : Obligations.ResetValuesOfTheRegisters := by
  unfold Obligations.ResetValuesOfTheRegisters
  have hkey (j : Nat) (h : j < 6) : State.reset.kbKey[j] = 0x00 := Vector.getElem_replicate h
  exact ⟨rfl, rfl, rfl, rfl, rfl, rfl, rfl, rfl, rfl, rfl, rfl, rfl, rfl, rfl, hkey, rfl, rfl, rfl, rfl, rfl, rfl, rfl,
    rfl, rfl, rfl, fun _ => ⟨rfl, rfl⟩⟩

end Sys2Proof.Machine
end

section
/-! SUPPORT. What a step does with an instruction (spec/10_state.md R47, spec/30_encoding.md R92, R110), and with the events
that no engine heeds (spec/42_dispatch.md R190, spec/60_exceptions.md R246). -/

namespace Sys2Proof.Machine

theorem fetch_of_issue (s : State) (idx : Nat) (v : Half) (rest : List Input) (h : s.inputs = .wr 0x00 idx v :: rest) :
    fetch s = some (opWordBytes (v.setWidth 4) s.txCmd) := by
  simp [fetch, h]

theorem fetch_of_link (s : State) (bytes : List Byte) (rest : List Input) (h : s.inputs = .link bytes :: rest) :
    fetch s = if 6 ≤ bytes.length then some bytes else none := by
  rw [fetch, h]

/-- Settles O5: the fetch by the kind of the next input, and `step` on what it decodes to. -/
theorem stepRunsTheDecodedInstruction : Obligations.StepRunsTheDecodedInstruction := by
  unfold Obligations.StepRunsTheDecodedInstruction
  exact ⟨fetch_of_issue, fetch_of_link, fun s bytes i hf hd _ => step_of_fetch s bytes i hf hd⟩

theorem transmitStep_of_phase (s : State) (h : s.phase ≠ .tx) : transmitStep s = .next s := if_neg h

theorem not_receiving_of_le (s : State) (h : s.rxNeed.toNat ≤ s.rxIdx.toNat) : receiving s = false := by
  simp [receiving, h]

/-- R71, R190, R246: when a receive step takes nothing. -/
theorem receiveStep_of_nothing_to_take (s : State)
    (h : s.phase ≠ .rx ∨ s.rxQueue = [] ∨ s.rxNeed.toNat ≤ s.rxIdx.toNat) : receiveStep s = s := by
  rcases h with h | h | h
  · exact receiveStep_of_not_receiving s (not_receiving_of_phase s h)
  · exact receiveStep_of_empty s h
  · exact receiveStep_of_not_receiving s (not_receiving_of_le s h)

/-- Settles O41: each of these events is a step of its own rule. -/
theorem eventsOutsideTheirPhaseChangeNothing : Obligations.EventsOutsideTheirPhaseChangeNothing := by
  unfold Obligations.EventsOutsideTheirPhaseChangeNothing
  intro s rest
  refine ⟨fun h hp => ?ready, fun h hn => ?rxByte, fun bytes h => ?arrive, fun block h => ?store, fun h => ?power⟩ <;>
    rw [step_of_event s _ rest h (by simp) (by simp), dropInput_eq h]
  case ready => exact transmitStep_of_phase { s with inputs := rest } hp
  case rxByte => exact congrArg Host.Outcome.next (receiveStep_of_nothing_to_take { s with inputs := rest } hn)
  all_goals rfl

end Sys2Proof.Machine
end

section
/-! SUPPORT. A right response passes all four checks, and the exchange of `GET_PARA_CFG` (spec/41_frame_receive.md R151,
R158, spec/42_dispatch.md R186). -/

namespace Sys2Proof.Machine

/-- R151, R152: a frame of the response command and the length expected, with its own checksum, passes all checks. -/
theorem checksOf_frame (a ec : Byte) (p : List Byte) :
    checksOf (frameHead a (rspCmd ec) p ++ [sum8 (frameHead a (rspCmd ec) p)]) ec (BitVec.ofNat 8 p.length)
      = ⟨true, true, true, true⟩ := by
  have hsum : sumOk (frameHead a (rspCmd ec) p ++ [sum8 (frameHead a (rspCmd ec) p)]) = true := by
    simp [sumOk]
  simp only [checksOf, hsum]
  simp [hdrOk, cmdOk, lenOk, frameHead]

theorem parseResponse_frame (a ec : Byte) (p : List Byte) (hp : p.length ≤ 255) :
    parseResponse (frameHead a (rspCmd ec) p ++ [sum8 (frameHead a (rspCmd ec) p)]) ec (BitVec.ofNat 8 p.length)
      = some (.ok p) := by
  have hl : (BitVec.ofNat 8 p.length).toNat = p.length := by
    rw [BitVec.toNat_ofNat]
    omega
  rw [parseResponse, hl, if_pos (by simp [frameHead]), checksOf_frame]
  simp [Checks.firstFailure, frameHead]

/-- A part of a range is a range. -/
theorem memRange_part (m : Mem) (n i k : Nat) (bs : List Byte) (h : memRange m 0 n = some bs) (hk : i + k ≤ n) :
    memRange m i k = some ((bs.drop i).take k) := by
  have hl := memRange_length m 0 n bs h
  have hlen : ((bs.drop i).take k).length = k := by
    rw [List.length_take, List.length_drop]
    omega
  have := memRange_eq_of_reads m ((bs.drop i).take k) i fun j hj => by
    rw [hlen] at hj
    rw [List.getElem?_take_of_lt hj, List.getElem?_drop, ← memRange_get m 0 n bs h (i + j) (by omega), Nat.zero_add]
  rwa [hlen] at this

/-- R71, R156, R158: at the start of a receive phase with an empty input buffer, a frame of exactly the bytes needed is taken
whole and judged. -/
theorem receiveFrame_of_awaits (s : State) (f : List Byte) (h : AwaitsResponse s) (hl : f.length = s.expLen.toNat + 6) :
    receiveFrame f s = verdict (takenFrame s f []) := by
  obtain ⟨hp, hi, -, hn, hq, -⟩ := h
  have hneed : s.rxNeed.toNat = s.rxIdx.toNat + f.length := by
    rw [hn, rxNeed_toNat, hi, hl]
    exact (Nat.zero_add _).symm
  rw [receiveFrame, hq]
  exact receiveMany_frame (arriveBytes f s) f [] hp (by simp [hq]) hneed (by omega) _ (by simp)

/-- R158 on a right response where no status byte is tested. -/
theorem verdict_of_right_response (s : State) (a : Byte) (p : List Byte) (h : AwaitsResponse s)
    (hl : s.expLen = BitVec.ofNat 8 p.length) (hp : p.length ≤ 255) (hc : s.opLatch.chkStatus = false) :
    verdict (takenFrame s (frameHead a (rspCmd s.expCmd) p ++ [sum8 (frameHead a (rspCmd s.expCmd) p)]) [])
      = finishOk { takenFrame s (frameHead a (rspCmd s.expCmd) p ++ [sum8 (frameHead a (rspCmd s.expCmd) p)]) [] with
          checks := ⟨true, true, true, true⟩ } := by
  obtain ⟨-, hi, hs, hn, -, hw⟩ := h
  have hparse := parseResponse_frame a s.expCmd p hp
  have hchecks := checksOf_frame a s.expCmd p
  rw [← hl] at hparse hchecks
  have hneed : s.rxNeed.toNat = s.expLen.toNat + 6 := by rw [hn, rxNeed_toNat]
  have hlen : s.expLen.toNat = p.length := by
    rw [hl, BitVec.toNat_ofNat]
    omega
  rw [verdict_takenFrame s [] _ [] hw (by rw [hi]; rfl) hs (by simp [hneed, hlen, hi, frameHead_length]) hneed (by simp),
    List.nil_append, hparse, hchecks]
  simp [hc]

/-- What a full receive from the start of a phase leaves, but for the result registers (R156, R159). -/
theorem takenFrame_of_awaits (s : State) (f : List Byte) (h : AwaitsResponse s) :
    takenFrame s f [] = { s with
      rxQueue := []
      rxTaken := s.rxTaken + f.length
      rxBuf := (takenFrame s f []).rxBuf
      rxSum := sum8 (f.take (f.length - 1))
      rxIdx := BitVec.ofNat 9 f.length } := by
  obtain ⟨-, hi, hs, -⟩ := h
  simp [takenFrame, hi, hs]

/-- The cells after a full receive are the bytes of the frame (R36). -/
theorem memRange_of_awaits (s : State) (f : List Byte) (h : AwaitsResponse s) (hf : f.length ≤ 261) :
    memRange (takenFrame s f []).rxBuf 0 f.length = some f := by
  obtain ⟨-, hi, -, -, -, hw⟩ := h
  have := memRange_takenFrame s [] f [] hw (by rw [hi]; rfl) (by simpa [hi] using hf)
  simpa [hi] using this

/-- Settles O33: the response is taken whole, passes the four checks, and its cells are the bytes of the frame. -/
theorem getResponseDeliversTheBlock : Obligations.GetResponseDeliversTheBlock := by
  unfold Obligations.GetResponseDeliversTheBlock
  intro s addr block chk ha hcmd hlen hchk hblock hsum
  have hc : chk = sum8 (frameHead addr (rspCmd s.expCmd) block) := by
    rw [hsum, hcmd, frameHead, hblock]
    rfl
  have hf : encode (.getRsp addr block chk) = frameHead addr (rspCmd s.expCmd) block ++ [chk] := by
    rw [hcmd]
    rfl
  have hfl : (encode (.getRsp addr block chk)).length = 56 := by simp [hf, frameHead_length, hblock]
  have htaken := receiveFrame_of_awaits s _ ha (by rw [hfl, hlen]; rfl)
  have hverdict := verdict_of_right_response s addr block ha (by rw [hlen, hblock]; rfl) (by omega) hchk
  rw [← hc, ← hf] at hverdict
  have hcells := memRange_of_awaits s (encode (.getRsp addr block chk)) ha (by omega)
  rw [hfl] at hcells
  refine ⟨_, congrArg Host.Outcome.next (htaken.trans hverdict), ?whole, ?payload, ?address⟩
  case whole =>
    rw [takenFrame_of_awaits s _ ha]
    rfl
  case payload =>
    show memRange _ 5 s.expLen.toNat = some block
    rw [hlen]
    refine (memRange_part _ 56 5 50 _ hcells (by omega)).trans ?_
    simp [hf, frameHead, hblock]
  case address =>
    exact (memRange_get _ 0 56 _ hcells 2 (by omega)).trans (by rw [hf]; rfl)

end Sys2Proof.Machine
end

section
/-! SUPPORT. What a whole read does to a receive phase at any of its points, whatever waits in the input buffer, and the
two ways bytes come to be read in one go: a frame from the device, and bytes on the link that are no frame
(spec/20_memory.md R71, R72, spec/41_frame_receive.md R156, R158, R159). -/

namespace Sys2Proof.Machine

/-! ### A frame arrives outside a receive phase -/

theorem receiveFrame_of_phase (bytes : List Byte) (s : State) (h : s.phase ≠ .rx) :
    receiveFrame bytes s = arriveBytes bytes s :=
  receiveMany_of_phase (arriveBytes bytes s) h _

/-- Settles O30: outside phase `RX` the receive engine takes nothing, so the frame only arrives. -/
theorem deviceFrameWaitsOutsideRx : Obligations.DeviceFrameWaitsOutsideRx := by
  unfold Obligations.DeviceFrameWaitsOutsideRx
  intro i s hi hp
  rw [exec_of_isDeviceFrame i s hi, receiveFrame_of_phase _ s hp]
  rfl

/-! ### The counters of a receive phase -/

theorem Receiving.length_eq {old : List Byte} {s : State} (h : Receiving old s) : old.length = s.rxIdx.toNat := by
  obtain ⟨-, -, -, hr, -, -⟩ := h
  exact memRange_length _ _ _ _ hr

theorem Receiving.need_eq {old : List Byte} {s : State} (h : Receiving old s) :
    s.rxNeed.toNat = s.expLen.toNat + 6 := by
  obtain ⟨-, hneed, -⟩ := h
  rw [hneed, rxNeed_toNat]

/-- At least one byte is missing. -/
theorem Receiving.length_lt {old : List Byte} {s : State} (h : Receiving old s) :
    old.length < s.expLen.toNat + 6 := by
  rw [h.length_eq, ← h.need_eq]
  obtain ⟨-, -, hin, -⟩ := h
  exact hin

/-! ### Fewer bytes than are missing -/

theorem takenSoFar_takenBytes (s : State) (old f : List Byte) (h : Receiving old s)
    (hn : old.length + f.length < s.expLen.toNat + 6) :
    TakenSoFar (old ++ f) f.length [] s (takenBytes s f [] f.length) := by
  have hi := h.length_eq
  obtain ⟨-, -, -, hr, hs, hw⟩ := h
  have hlt := s.expLen.isLt
  have hfit : s.rxIdx.toNat + f.length ≤ cfg.rxBufCells := by
    show _ ≤ 261
    omega
  have hlen : (old ++ f).length = s.rxIdx.toNat + f.length := by rw [List.length_append, hi]
  have hbuf : (takenBytes s f [] f.length).rxBuf = memWriteList cfg.rxBufCells s.rxBuf s.rxIdx.toNat f := by
    simp [takenBytes]
  refine ⟨?state, ?taken, fun a ha => ?others⟩
  case state => simp [takenBytes, sum8_append, hs, hi]
  case taken =>
    rw [hlen, hbuf]
    exact memRange_memWriteList _ _ _ old f hw hr hfit
  case others => rw [hbuf, memRead_memWriteList _ f _ _ a hw hfit, if_neg (by omega)]

/-! ### The bytes that are missing -/

/-- The last byte is not summed (R131, R156). -/
theorem rxSum_takenFrame (s : State) (old f rest : List Byte) (hs : s.rxSum = sum8 old) (hpos : 0 < f.length) :
    (takenFrame s f rest).rxSum = sum8 ((old ++ f).take ((old ++ f).length - 1)) := by
  have htake : (old ++ f).take ((old ++ f).length - 1) = old ++ f.take (f.length - 1) := by
    rw [List.length_append, show old.length + f.length - 1 = old.length + (f.length - 1) by omega,
      List.take_length_add_append]
  rw [htake, sum8_append, ← hs]
  rfl

/-- R152: an accepted response yields its payload. -/
theorem payload_of_parseResponse {r : List Byte} {ec el : Byte} {p : List Byte}
    (h : parseResponse r ec el = some (.ok p)) : p = (r.drop 5).take el.toNat := by
  unfold parseResponse at h
  split at h
  · split at h
    · cases h
    · cases h
      rfl
  · cases h

theorem parseResponse_ne_none (r : List Byte) (ec el : Byte) (h : r.length = el.toNat + 6) :
    parseResponse r ec el ≠ none := by
  rw [parseResponse, if_pos h]
  split <;> nofun

section
variable (s : State) (old f q : List Byte) (h : Receiving old s) (hn : old.length + f.length = s.expLen.toNat + 6)
include h hn

/-- What taking the missing bytes leaves, but for the verdict. -/
theorem takenFrame_of_receiving :
    takenFrame s f q = { s with
      rxQueue := q
      rxTaken := s.rxTaken + f.length
      rxBuf := (takenFrame s f q).rxBuf
      rxSum := sum8 ((old ++ f).take ((old ++ f).length - 1))
      rxIdx := BitVec.ofNat 9 (old ++ f).length } := by
  have hlt := h.length_lt
  have hi := h.length_eq
  obtain ⟨-, -, -, -, hs, -⟩ := h
  rw [← rxSum_takenFrame s old f q hs (by omega), List.length_append, hi]
  rfl

theorem cells_takenFrame_of_receiving :
    memRange (takenFrame s f q).rxBuf 0 (old ++ f).length = some (old ++ f) ∧
      ∀ a, (old ++ f).length ≤ a → memRead (takenFrame s f q).rxBuf a = memRead s.rxBuf a := by
  have hi := h.length_eq
  obtain ⟨-, -, -, hr, -, hw⟩ := h
  have hlt := s.expLen.isLt
  have hfit : s.rxIdx.toNat + f.length ≤ 261 := by omega
  rw [List.length_append, hi]
  exact ⟨memRange_takenFrame s old f q hw hr hfit,
    fun a ha => (memRead_memWriteList 261 f _ _ a hw hfit).trans (if_neg (by omega))⟩

/-- R156, R158: the verdict on a full read is that of `parse_response` on all the bytes taken, and the status test's. -/
theorem readAndJudged_takenFrame : ReadAndJudged (old ++ f) f.length q s (verdict (takenFrame s f q)) := by
  have hstate := takenFrame_of_receiving s old f q h hn
  obtain ⟨hrange, hothers⟩ := cells_takenFrame_of_receiving s old f q h hn
  have hlen : (old ++ f).length = s.expLen.toNat + 6 := by rw [List.length_append, hn]
  have hlt := h.length_lt
  have hi := h.length_eq
  have hneed := h.need_eq
  obtain ⟨-, -, -, hr, hs, hw⟩ := h
  rw [verdict_takenFrame s old f q hw hr hs (by omega) hneed (by omega)]
  unfold ReadAndJudged
  cases hparse : parseResponse (old ++ f) s.expCmd s.expLen with
  | none => exact absurd hparse (parseResponse_ne_none _ _ _ hlen)
  | some o =>
    cases o with
    | protocolError e =>
      refine ⟨?_, hrange, hothers, rfl, rfl, ite_self _, ?_⟩ <;> rw [hstate] <;> rfl
    | ok p =>
      by_cases hrej : s.opLatch.chkStatus = true ∧ (old ++ f).getD 5 0 ≠ 0x00
      · simp only [if_pos hrej]
        refine ⟨?_, hrange, hothers, rfl, rfl, rfl, ?_⟩ <;> rw [hstate] <;> rfl
      · simp only [if_neg hrej]
        have hpayload : rspPayload (takenFrame s f q) = some p := by
          rw [payload_of_parseResponse hparse]
          exact memRange_part _ _ 5 s.expLen.toNat _ hrange (by omega)
        refine ⟨?_, hrange, hothers, rfl, ?_, ?_, ?_, hpayload⟩ <;> rw [hstate] <;> rfl

end

/-! ### All that stands in the input buffer, in one go -/

/-- With the missing bytes at the front of the input buffer, as many receive steps (or more) take and judge them. -/
theorem receiveMany_readAndJudged (s : State) (old f q : List Byte) (h : Receiving old s) (hq : s.rxQueue = f ++ q)
    (hn : old.length + f.length = s.expLen.toNat + 6) (n : Nat) (hle : f.length ≤ n) :
    ReadAndJudged (old ++ f) f.length q s (receiveMany n s) := by
  have hlt := h.length_lt
  have hi := h.length_eq
  have hneed := h.need_eq
  rw [receiveMany_frame s f q h.1 hq (by omega) (by omega) n hle]
  exact readAndJudged_takenFrame s old f q h hn

theorem receiveMany_takenSoFar (s : State) (old : List Byte) (h : Receiving old s)
    (hn : old.length + s.rxQueue.length < s.expLen.toNat + 6) :
    TakenSoFar (old ++ s.rxQueue) s.rxQueue.length [] s (receiveMany s.rxQueue.length s) := by
  have hi := h.length_eq
  have hneed := h.need_eq
  rw [receiveMany_short s s.rxQueue h.1 rfl (by omega)]
  exact takenSoFar_takenBytes s old s.rxQueue h hn

theorem receiveMany_readInOneGo (s : State) (old : List Byte) (h : Receiving old s) :
    ReadInOneGo old s.rxQueue s (receiveMany s.rxQueue.length s) := by
  refine ⟨receiveMany_takenSoFar s old h, fun hfull => ?_⟩
  have hlt := h.length_lt
  have hm : (s.rxQueue.take (s.expLen.toNat + 6 - old.length)).length = s.expLen.toNat + 6 - old.length :=
    List.length_take_of_le (by omega)
  have hread := receiveMany_readAndJudged s old _ _ h
    (List.take_append_drop (s.expLen.toNat + 6 - old.length) s.rxQueue).symm (by omega) s.rxQueue.length (by omega)
  rwa [hm] at hread

/-- R71, R156: bytes that reach a receive phase are read behind those that wait there. -/
theorem receiveFrame_readInOneGo (s : State) (old bytes : List Byte) (h : Receiving old s) :
    ReadInOneGo old (s.rxQueue ++ bytes) s (receiveFrame bytes s) := by
  have hread := receiveMany_readInOneGo (arriveBytes bytes s) old h
  rwa [arriveBytes_rxQueue, List.length_append] at hread

/-- Settles O32: a frame from the device is read in one go, however many bytes are missing. -/
theorem deviceFrameOfAnotherLength : Obligations.DeviceFrameOfAnotherLength := by
  unfold Obligations.DeviceFrameOfAnotherLength
  intro i s old hi h _
  exact ⟨_, exec_of_isDeviceFrame i s hi, receiveFrame_readInOneGo s old (encode i) h⟩

/-- Settles O60: bytes that are no frame are received as a frame from the device is. -/
theorem linkBytesThatAreNoFrameArrive : Obligations.LinkBytesThatAreNoFrameArrive := by
  unfold Obligations.LinkBytesThatAreNoFrameArrive
  intro s bytes rest hin hb
  rw [step_of_no_frame s bytes rest hin hb, dropInput_eq hin]
  refine ⟨fun hp => ?outside, fun old h => ?inside⟩
  case outside =>
    rw [receiveFrame_of_phase bytes { s with inputs := rest } hp]
    rfl
  case inside => exact ⟨_, rfl, receiveFrame_readInOneGo { s with inputs := rest } old bytes h⟩

end Sys2Proof.Machine
end

section
/-! SUPPORT. When an instruction, and a step, has no next state: only where a transmit would read an unwritten payload
cell (spec/20_memory.md R82, spec/40_frame_transmit.md R133). -/

namespace Sys2Proof.Machine

/-- The answer is a next state, but for a transmit in `s` that lacks a payload cell (R82). -/
def StepsOrLacksPayload (s : State) (a : Answer) : Prop :=
  (∃ t, a = .next t) ∨ (a = .refused .unwrittenTxCell ∧ s.phase = .tx ∧ ¬PayloadWritten s)

theorem StepsOrLacksPayload.of_next {s : State} (t : State) : StepsOrLacksPayload s (.next t) := .inl ⟨t, rfl⟩

theorem memRead_isSome_of_payloadWritten (s : State) (h : PayloadWritten s) (k : Nat) (hk : k < s.txLen.toNat) :
    (memRead s.txBuf k).isSome = true := by
  obtain ⟨p, hp⟩ := Option.isSome_iff_exists.1 h
  have hl := memRange_length _ _ _ _ hp
  have hget := memRange_get _ _ _ _ hp k hk
  rw [Nat.zero_add] at hget
  rw [hget, List.getElem?_eq_getElem (by omega)]
  rfl

theorem not_payloadWritten_of_operandFrame (s : State) (h : operandFrame s = none) : ¬PayloadWritten s := by
  intro hp
  obtain ⟨p, hp⟩ := Option.isSome_iff_exists.1 hp
  have hl := memRange_length _ _ _ _ hp
  have hlt := s.txLen.isLt
  simp only [operandFrame, hp] at h
  rw [buildFrame_eq _ _ _ (by omega)] at h
  cases h

theorem frameByte_of_payload (s : State) (k : Nat) (h5 : 5 ≤ k) (hk : k < s.txLen.toNat + 5) :
    frameByte s k = memRead s.txBuf (k - 5) := by
  unfold frameByte
  rw [if_neg (by omega), if_neg (by omega), if_neg (by omega), if_neg (by omega), if_neg (by omega), if_pos hk]

theorem frameByte_of_checksum (s : State) : frameByte s (s.txLen.toNat + 5) = some s.txSum := by
  unfold frameByte
  rw [if_neg (by omega), if_neg (by omega), if_neg (by omega), if_neg (by omega), if_neg (by omega), if_neg (by omega),
    if_pos rfl]

/-- Within a frame whose payload is written there is a byte to send. -/
theorem frameByte_isSome (s : State) (k : Nat) (h : PayloadWritten s) (hk : k ≤ s.txLen.toNat + 5) :
    (frameByte s k).isSome = true := by
  by_cases h5 : k < 5
  · interval_cases k <;> rfl
  · rcases Nat.lt_or_eq_of_le hk with hlt | rfl
    · rw [frameByte_of_payload s k (by omega) hlt]
      exact memRead_isSome_of_payloadWritten s h _ (by omega)
    · rw [frameByte_of_checksum]
      rfl

theorem transmitStep_of_byte (s : State) (b : Byte) (hp : s.phase = .tx) (hi : s.txIdx.toNat ≤ s.txLen.toNat + 5)
    (hb : frameByte s s.txIdx.toNat = some b) : transmitStep s = .next (sendByte b s) := by
  rw [transmitStep, if_pos hp, if_neg (by omega), hb]

theorem transmitStep_of_no_byte (s : State) (hp : s.phase = .tx) (hi : s.txIdx.toNat ≤ s.txLen.toNat + 5)
    (hb : frameByte s s.txIdx.toNat = none) : transmitStep s = .refused .unwrittenTxCell := by
  rw [transmitStep, if_pos hp, if_neg (by omega), hb]

/-- Within a frame the transmit step lacks nothing but a payload cell (R133). -/
theorem transmitStep_stepsOrLacksPayload (s : State) (h : s.phase = .tx → s.txIdx.toNat ≤ s.txLen.toNat + 5) :
    StepsOrLacksPayload s (transmitStep s) := by
  by_cases hp : s.phase = .tx
  · cases hb : frameByte s s.txIdx.toNat with
    | some b => exact .inl ⟨_, transmitStep_of_byte s b hp (h hp) hb⟩
    | none =>
      refine .inr ⟨transmitStep_of_no_byte s hp (h hp) hb, hp, fun hw => ?_⟩
      have := frameByte_isSome s _ hw (h hp)
      simp [hb] at this
  · exact .inl ⟨s, transmitStep_of_phase s hp⟩

theorem frameOut_stepsOrLacksPayload (bytes : List Byte) (s : State) : StepsOrLacksPayload s (frameOut bytes s) := by
  rcases frameOut_cases bytes s with e | ⟨e, hp, hf, -⟩ | ⟨e, hp, hi, hs, hf⟩ <;> rw [e]
  · exact .of_next s
  · exact .inr ⟨rfl, hp, not_payloadWritten_of_operandFrame s hf⟩
  · rw [transmitMany_frame s bytes hp hi hs hf]
    exact .of_next _

/-- No instruction but a request frame is without a next state. -/
theorem exec_steps (i : Instr) (s : State) (h : isRequestFrame i = false) : ∃ t, exec i s = .next t := by
  rcases instr_cases i with hr | hd | ho | rfl
  · rw [h] at hr
    cases hr
  · exact ⟨_, exec_of_isDeviceFrame i s hd⟩
  · exact ⟨_, exec_of_mem_ordinaryOps i s ho⟩
  · exact ⟨_, rfl⟩

theorem exec_stepsOrLacksPayload (i : Instr) (s : State) : StepsOrLacksPayload s (exec i s) := by
  cases h : isRequestFrame i with
  | false => exact .inl (exec_steps i s h)
  | true =>
    rw [exec_of_isRequestFrame i s h]
    exact frameOut_stepsOrLacksPayload _ s

/-- Settles O53: only a request frame can be without a next state, and it lacks nothing but the payload. -/
theorem everyInstructionAnswersANextState : Obligations.EveryInstructionAnswersANextState := by
  unfold Obligations.EveryInstructionAnswersANextState
  rintro i s (hi | hs)
  · exact exec_steps i s hi
  · rcases exec_stepsOrLacksPayload i s with ht | ⟨-, hp, hw⟩
    · exact ht
    · exact absurd hs (by simp [hp, hw])

theorem eventStep_stepsOrLacksPayload (e : Input) (s : State) (h : s.phase = .tx → s.txIdx.toNat ≤ s.txLen.toNat + 5) :
    StepsOrLacksPayload s (eventStep e s) := by
  cases e with
  | txReady => exact transmitStep_stepsOrLacksPayload s h
  | _ => exact .of_next _

/-- R82: a step whose counter stands within the frame lacks nothing but a payload cell. -/
theorem step_stepsOrLacksPayload (s : State) (h : s.phase = .tx → s.txIdx.toNat ≤ s.txLen.toNat + 5) :
    StepsOrLacksPayload s (step s) := by
  unfold step
  split
  · split
    · exact exec_stepsOrLacksPayload _ (dropInput s)
    · exact .of_next _
  · unfold idleStep
    split
    · exact .of_next s
    · exact eventStep_stepsOrLacksPayload _ (dropInput s) h

/-- Settles O52: `Inv` keeps the counter within the frame. -/
theorem soundStatesStepOrLackAPayload : Obligations.SoundStatesStepOrLackAPayload := by
  unfold Obligations.SoundStatesStepOrLackAPayload
  intro s h
  rcases step_stepsOrLacksPayload s h.txWithin with ⟨t, ht⟩ | ⟨ht, hlack⟩ <;> rw [ht]
  · exact ⟨nofun, nofun⟩
  · refine ⟨nofun, fun r hr => ?_⟩
    cases hr
    exact ⟨rfl, hlack⟩

/-- Settles O37: the byte at a payload position is the cell's. -/
theorem unwrittenPayloadCellIsRefused : Obligations.UnwrittenPayloadCellIsRefused := by
  unfold Obligations.UnwrittenPayloadCellIsRefused
  intro s rest hin hp h5 hi hcell
  have hb : frameByte s s.txIdx.toNat = none := by rw [frameByte_of_payload s _ h5 (by omega), hcell]
  rw [step_of_event s _ rest hin (by simp) (by simp)]
  exact transmitStep_of_no_byte (dropInput s) hp (by simp; omega) hb

end Sys2Proof.Machine
end

section
/-! SUPPORT. A request frame handed over in full (spec/40_frame_transmit.md R133, R134), and the traffic of a completed
`XFER`: the operation's issue, the request, the response (spec/41_frame_receive.md R162, R163). -/

namespace Sys2Proof.Machine

/-! ### A request frame is handed over -/

/-- What stands once a frame has been sent in full (R133, R134): `TX_SUM` is the checksum, the frame's last byte. -/
theorem sentFrame_eq_handedOver (s : State) (f : List Byte) (h : operandFrame s = some f) :
    sentFrame s f = handedOver f s := by
  have hsum : sum8 (f.take (f.length - 1)) = f.getD (f.length - 1) 0 := by
    obtain ⟨p, -, -, rfl⟩ := operandFrame_some s f h
    simp
  simp only [sentFrame, handedOver, hsum, ← List.append_assoc]
  split
  next ha => exact endFrame_await { s with link := _, txIdx := _, txSum := _ } ha
  next ha => exact endFrame_done { s with link := _, txIdx := _, txSum := _ } (Bool.eq_false_of_not_eq_true ha)

theorem frameOut_of_operandFrame (s : State) (f : List Byte) (hp : s.phase = .tx) (hi : s.txIdx = 0) (hs : s.txSum = 0)
    (h : operandFrame s = some f) : frameOut f s = .next (handedOver f s) := by
  rw [← sentFrame_eq_handedOver s f h, ← transmitMany_frame s f hp hi hs h]
  simp [frameOut, hp, hi, hs, h]

/-- Settles O28: the frame in the operand registers passes. -/
theorem requestFrameIsHandedOver : Obligations.RequestFrameIsHandedOver := by
  unfold Obligations.RequestFrameIsHandedOver
  intro i s hr hp hi hs hf
  rw [exec_of_isRequestFrame i s hr]
  exact frameOut_of_operandFrame s (encode i) hp hi hs hf

/-! ### Runs -/

theorem run_of_next (m n : Nat) (s t : State) (h : Host.Core.run core m s = .next t) :
    Host.Core.run core (m + n) s = Host.Core.run core n t := by
  rw [run_add, h]

/-! ### The issue of the operation -/

/-- Settles O17: `XFER` accepted is its own rule on the cleared result. -/
theorem xferFlushesAndBeginsTheTransmitPhase : Obligations.XferFlushesAndBeginsTheTransmitPhase := by
  unfold Obligations.XferFlushesAndBeginsTheTransmitPhase
  intro s hr
  rw [exec_of_mem_ordinaryOps _ s (by simp [ordinaryOps]), accept_of_ready _ s hr]
  rfl

/-- What an accepted `XFER` makes of a state (R162). -/
def xferAccepted (s : State) : State :=
  { acceptedState s with
    opLatch := ⟨true, false⟩
    expCmd := s.txCmd
    link := s.link ++ [.rxFlush]
    rxQueue := []
    txIdx := 0
    txSum := 0
    phase := .tx }

theorem step_issues_xfer (s : State) (idx : Nat) (v : Half) (rest : List Input) (hr : Ready s) (hv : v.setWidth 4 = 0x3)
    (hin : s.inputs = .wr 0x00 idx v :: rest) : step s = .next (xferAccepted { s with inputs := rest }) := by
  rw [step_of_issue s idx v rest hin, hv, dropInput_eq hin]
  exact xferFlushesAndBeginsTheTransmitPhase { s with inputs := rest } hr

/-! ### The request -/

theorem operandFrame_of_payload {s : State} {p f : List Byte} (hp : memRange s.txBuf 0 s.txLen.toNat = some p)
    (hf : buildFrame s.txAddr s.txCmd p = some f) : operandFrame s = some f := by
  rw [operandFrame, operandPayload, hp]
  exact hf

/-- R133, R134, R136: where the transport accepts `TX_LEN + 6` bytes from a frame's start, the frame is handed over. -/
theorem run_sends_frame (s : State) (f : List Byte) (rest : List Input) (hp : s.phase = .tx) (hi : s.txIdx = 0)
    (hs : s.txSum = 0) (hf : operandFrame s = some f)
    (hin : s.inputs = List.replicate (s.txLen.toNat + 6) .txReady ++ rest) :
    Host.Core.run core (s.txLen.toNat + 6) s = .next (handedOver f { s with inputs := rest }) := by
  have hf' : operandFrame (withInputs rest s) = some f := hf
  have hsent := transmitMany_frame (withInputs rest s) f hp hi hs hf'
  rw [operandFrame_length s f hf, sentFrame_eq_handedOver _ f hf'] at hsent
  rw [run_txReady _ rest s hin, hsent]
  rfl

/-- R162: `XFER` is issued and its request is sent. -/
theorem run_issues_and_sends_xfer (s : State) (idx : Nat) (v : Half) (f : List Byte) (rest : List Input) (hr : Ready s)
    (hv : v.setWidth 4 = 0x3) (hf : operandFrame s = some f)
    (hin : s.inputs = .wr 0x00 idx v :: (List.replicate (s.txLen.toNat + 6) .txReady ++ rest)) :
    Host.Core.run core (s.txLen.toNat + 6 + 1) s = .next (handedOver f (xferAccepted { s with inputs := rest })) :=
  (run_of_step _ s _ (step_issues_xfer s idx v _ hr hv hin)).trans
    (run_sends_frame (xferAccepted { s with inputs := _ }) f rest rfl rfl rfl hf rfl)

/-- R155: after the request, its response is awaited. -/
theorem handedOver_awaitsResponse (s : State) (f : List Byte) (ha : s.opLatch.await = true) (hq : s.rxQueue = [])
    (hw : Memory.wf cfg.rxBufCells s.rxBuf = true) : AwaitsResponse (handedOver f s) := by
  rw [handedOver, if_pos ha]
  exact ⟨rfl, rfl, rfl, rfl, hq, hw⟩

/-! ### The response -/

/-- The start of a receive phase is one of its points, with no byte taken. -/
theorem receiving_of_awaitsResponse (s : State) (h : AwaitsResponse s) : Receiving [] s := by
  obtain ⟨hp, hi, hs, hneed, -, hw⟩ := h
  refine ⟨hp, hneed, ?_, ?_, hs, hw⟩
  · rw [hneed, rxNeed_toNat, hi]
    exact Nat.succ_pos _
  · rw [hi]
    rfl

/-- R71, R156, R158: the response arrives and is taken in full. -/
theorem receiveMany_response (s : State) (r : List Byte) (h : AwaitsResponse s) (hl : r.length = s.expLen.toNat + 6) :
    ReadAndJudged r r.length [] s (receiveMany (s.expLen.toNat + 6) (arriveBytes r s)) := by
  have hreceiving : Receiving [] (arriveBytes r s) := receiving_of_awaitsResponse s h
  obtain ⟨-, -, -, -, hq, -⟩ := h
  have hqueue : (arriveBytes r s).rxQueue = r ++ [] := by simp [hq]
  exact receiveMany_readAndJudged _ [] r [] hreceiving hqueue ((Nat.zero_add _).trans hl) _ hl.le

/-- The response arrives, its bytes are taken one by one, and the last one brings the verdict. -/
theorem run_takes_response (s : State) (r : List Byte) (rest : List Input) (h : AwaitsResponse s)
    (hl : r.length = s.expLen.toNat + 6)
    (hin : s.inputs = .arrive r :: (List.replicate (s.expLen.toNat + 6) .rxByte ++ rest)) :
    ∃ t, Host.Core.run core (s.expLen.toNat + 6 + 1) s = .next t ∧
      ReadAndJudged r r.length [] { s with inputs := rest } t := by
  have hstep : step s = .next (arriveBytes r (dropInput s)) := step_of_event s _ _ hin (by simp) (by simp)
  have hinputs : (arriveBytes r (dropInput s)).inputs = List.replicate (s.expLen.toNat + 6) .rxByte ++ rest := by
    simp [hin]
  have hrun := (run_of_step _ s _ hstep).trans (run_rxByte _ rest _ hinputs)
  exact ⟨_, hrun, receiveMany_response { s with inputs := rest } r h hl⟩

/-- R158 where no status byte is tested: the result is OK exactly where `parse_response` accepts. -/
theorem result_ok_iff_of_readAndJudged {r q : List Byte} {n : Nat} {s t : State} (h : ReadAndJudged r n q s t)
    (hc : s.opLatch.chkStatus = false) :
    t.result = .ok ↔ ∃ p, parseResponse r s.expCmd s.expLen = some (.ok p) := by
  obtain ⟨-, -, -, hjudge⟩ := h
  cases hparse : parseResponse r s.expCmd s.expLen with
  | none => simp [hparse] at hjudge
  | some o =>
    cases o with
    | protocolError e =>
      simp only [hparse] at hjudge
      simp [hjudge.1]
    | ok p =>
      simp only [hparse, hc] at hjudge
      simp [hjudge.1]

/-- Settles O46: the issue, the request and the response, one after the other. -/
theorem completedXferOrdersItsTraffic : Obligations.CompletedXferOrdersItsTraffic := by
  unfold Obligations.CompletedXferOrdersItsTraffic
  intro s idx v rest p f r hr hv hin hp hf hl hw
  have hsend := run_issues_and_sends_xfer s idx v f _ hr hv (operandFrame_of_payload hp hf) hin
  have hawaits := handedOver_awaitsResponse (xferAccepted { s with
    inputs := .arrive r :: (List.replicate (s.expLen.toNat + 6) .rxByte ++ rest) }) f rfl rfl hw
  obtain ⟨t, htake, hread⟩ := run_takes_response _ r rest hawaits hl rfl
  have hok := result_ok_iff_of_readAndJudged hread rfl
  obtain ⟨ht, hcells, -, -⟩ := hread
  refine ⟨t, ?run, ?link, ?_, ?_, ?taken, ?_, ?_, ?_, ?_, ?_, ?_, ?_, hcells, ?_, hok⟩
  case run =>
    rw [show s.txLen.toNat + 6 + (s.expLen.toNat + 6) + 2 = s.txLen.toNat + 6 + 1 + (s.expLen.toNat + 6 + 1) by omega]
    exact (run_of_next _ _ s _ hsend).trans htake
  case link =>
    rw [ht]
    show s.link ++ [.rxFlush] ++ _ = _
    simp
  case taken =>
    rw [ht, ← hl]
    rfl
  all_goals rw [ht] <;> rfl

end Sys2Proof.Machine
end

section
/-! SUPPORT. Who writes the two byte memories (spec/20_memory.md R60 to R62), and the transport events that stay
(R75). -/

namespace Sys2Proof.Machine

/-! ### What the shared operations leave unchanged -/

/-- R111: an operation issued is ignored, or accepted. -/
theorem accept_cases (body : State → State) (s : State) :
    accept body s = s ∨ (Ready s ∧ accept body s = body (clearResults s)) := by
  cases hb : s.phase.busy with
  | true => exact .inl (accept_of_busy body s hb)
  | false => exact .inr ⟨ready_of_not_busy s hb, accept_of_ready body s (ready_of_not_busy s hb)⟩

theorem verdict_onlyResult (s : State) :
    verdict s = { s with
      phase := .done
      checks := (verdict s).checks, result := (verdict s).result
      errCode := (verdict s).errCode, errStatus := (verdict s).errStatus, errSeen := (verdict s).errSeen } := by
  rcases verdict_cases s with ⟨e, info, hv, -⟩ | hv <;> rw [hv]
  all_goals rfl

/-- `TX_BUF` and the transport's events are not the receive engine's to write (R61, R75). -/
theorem receiveStep_txBuf_link (s : State) :
    (receiveStep s).txBuf = s.txBuf ∧ (receiveStep s).link = s.link := by
  rcases receiveStep_cases s with hs | ⟨-, b, rest, -, ⟨-, hs⟩ | ⟨-, hs⟩⟩ <;> rw [hs]
  · exact ⟨rfl, rfl⟩
  · exact ⟨rfl, rfl⟩
  · rw [verdict_onlyResult]
    exact ⟨rfl, rfl⟩

/-- The transmit engine writes neither byte memory, and puts events out behind those before (R61, R62, R75). -/
theorem transmitStep_buffers_link (s t : State) (h : transmitStep s = .next t) :
    t.txBuf = s.txBuf ∧ t.rxBuf = s.rxBuf ∧ s.link <+: t.link := by
  rcases transmitStep_cases s t h with ⟨-, rfl⟩ | ⟨-, b, -, ⟨-, rfl⟩ | ⟨-, -, rfl⟩ | ⟨-, -, rfl⟩⟩
  · exact ⟨rfl, rfl, List.prefix_rfl⟩
  all_goals exact ⟨rfl, rfl, by simp [List.append_assoc]⟩

theorem OpOutcome.rxBuf_link {s t : State} (h : OpOutcome s t) : t.rxBuf = s.rxBuf ∧ s.link <+: t.link := by
  cases h
  case exchange => exact ⟨rfl, List.prefix_append _ _⟩
  all_goals exact ⟨rfl, List.prefix_rfl⟩

theorem dispatchArm_txBuf (e : DispatchEntry) (s : State) : (dispatchArm e s).txBuf = s.txBuf := by
  rcases dispatchArm_cases e s with ⟨-, h⟩ | ⟨-, -, h⟩ | ⟨-, -, h⟩ <;> rw [h]
  all_goals rfl

theorem txFailStep_cases (s : State) : txFailStep s = s ∨ txFailStep s = raise .io 0 s := by
  unfold txFailStep
  split
  · exact .inr rfl
  · exact .inl rfl

theorem timeoutStep_cases (s : State) : timeoutStep s = s ∨ timeoutStep s = raise .timeout 0 s := by
  unfold timeoutStep
  split
  · exact .inr rfl
  · exact .inl rfl

/-- R61: of the operations, only the formatters write `TX_BUF`. -/
theorem opBody_txBuf (i : Instr) (s : State) (hkb : i ≠ .fmtKb) (hms : i ≠ .fmtMsRel) :
    (opBody i s).txBuf = s.txBuf := by
  cases i with
  | dispatchKb | dispatchMs | dispatchGet | dispatchSet => exact dispatchArm_txBuf _ s
  | fmtKb => exact absurd rfl hkb
  | fmtMsRel => exact absurd rfl hms
  | _ => rfl

/-! ### Transport events stay -/

/-- No operation a step is made of takes back a transport event. -/
theorem keptByEvents_link (l : List LinkEvent) : KeptByEvents fun s => l <+: s.link where
  accepted s i h hi _ := h.trans (opBody_outcome i (clearResults s) hi).rxBuf_link.2
  transmit s t h ht := h.trans (transmitStep_buffers_link s t ht).2.2
  receive s h := by rwa [(receiveStep_txBuf_link s).2]
  arrive _ _ h := h
  reset _ h := h
  drop _ h := h
  write s no idx v h _ := by rwa [writeReg_operandsOnly no idx v s]
  read s no idx h := by rwa [hostRead_onlyHostData]
  fail s h := by rcases txFailStep_cases s with he | he <;> rwa [he]
  timeout s h := by rcases timeoutStep_cases s with he | he <;> rwa [he]
  store _ _ h := h
  power _ h := h

/-- Settles O56: no operation a step is made of takes back a transport event. -/
theorem emittedEventsStay : Obligations.EmittedEventsStay := by
  unfold Obligations.EmittedEventsStay
  exact fun s t h => step_keeps (keptByEvents_link s.link) s t List.prefix_rfl h

/-! ### The instructions that write a byte memory -/

/-- The two byte memories (R60). -/
def byteMemories (s : State) : Mem × Mem := (s.txBuf, s.rxBuf)

theorem receiveFrame_txBuf (bytes : List Byte) (s : State) : (receiveFrame bytes s).txBuf = s.txBuf :=
  receiveFrame_keeps (P := fun t => t.txBuf = s.txBuf) (fun _ _ h => h)
    (fun t h => (receiveStep_txBuf_link t).1.trans h) bytes s rfl

/-- Bytes that pass from the device write nothing outside phase `RX`, and in it `RX_BUF` at most (R62). -/
theorem receiveFrame_byteMemories (bytes : List Byte) (s : State) :
    byteMemories (receiveFrame bytes s) = byteMemories s ∨
      (s.phase = .rx ∧ (receiveFrame bytes s).txBuf = s.txBuf) := by
  by_cases hp : s.phase = .rx
  · exact .inr ⟨hp, receiveFrame_txBuf bytes s⟩
  · left
    rw [receiveFrame_of_phase bytes s hp]
    rfl

theorem frameOut_byteMemories (bytes : List Byte) (s t : State) (h : frameOut bytes s = .next t) :
    byteMemories t = byteMemories s := by
  refine frameOut_keeps (P := fun u => byteMemories u = byteMemories s) (fun u w hu hstep => ?_) bytes s t rfl h
  obtain ⟨htx, hrx, -⟩ := transmitStep_buffers_link u w hstep
  rw [← hu, byteMemories, htx, hrx]
  rfl

/-- All an ordinary operation can do to the byte memories: only a formatter, accepted, writes one (R61). -/
theorem accept_opBody_byteMemories (i : Instr) (s : State) (hi : i ∈ ordinaryOps) :
    byteMemories (accept (opBody i) s) = byteMemories s ∨
      (Ready s ∧ (i = .fmtKb ∨ i = .fmtMsRel) ∧ (accept (opBody i) s).rxBuf = s.rxBuf) := by
  rcases accept_cases (opBody i) s with ha | ⟨hready, ha⟩ <;> rw [ha]
  · exact .inl rfl
  · have hrx : (opBody i (clearResults s)).rxBuf = s.rxBuf := (opBody_outcome i _ hi).rxBuf_link.1
    by_cases hfmt : i = .fmtKb ∨ i = .fmtMsRel
    · exact .inr ⟨hready, hfmt, hrx⟩
    · obtain ⟨hkb, hms⟩ := not_or.1 hfmt
      exact .inl (Prod.ext (opBody_txBuf i _ hkb hms) hrx)

/-- All an instruction can do to the byte memories (R61, R62). -/
theorem exec_byteMemories (i : Instr) (s t : State) (h : exec i s = .next t) :
    byteMemories t = byteMemories s ∨ i = .softReset ∨
      (Ready s ∧ (i = .fmtKb ∨ i = .fmtMsRel) ∧ t.rxBuf = s.rxBuf) ∨
      (s.phase = .rx ∧ isDeviceFrame i = true ∧ t.txBuf = s.txBuf) := by
  rcases instr_cases i with hr | hd | ho | he
  · rw [exec_of_isRequestFrame i s hr] at h
    exact .inl (frameOut_byteMemories _ s t h)
  · rw [exec_of_isDeviceFrame i s hd] at h
    cases h
    exact (receiveFrame_byteMemories _ s).imp_right fun ⟨hp, htx⟩ => .inr (.inr ⟨hp, hd, htx⟩)
  · rw [exec_of_mem_ordinaryOps i s ho] at h
    cases h
    exact (accept_opBody_byteMemories i s ho).imp_right fun hf => .inr (.inl hf)
  · exact .inr (.inl he)

/-! ### The steps that write a byte memory -/

/-- The code of an operation is in its encoding (R110). -/
theorem encode_decodeOp_head (op : BitVec 4) (c : Byte) : (encode (decodeOp op c)).head? = some (op.setWidth 8) := by
  by_cases h4 : op = 0x4
  · subst h4
    show (encode (if c = cfg.cmdKb then _ else _)).head? = _
    repeat' split
    all_goals rfl
  · fin_cases op
    pick_goal 5
    · exact absurd rfl h4
    all_goals rfl

theorem code_of_decodeOp {op : BitVec 4} {c : Byte} {i : Instr} (code : BitVec 4) (h : decodeOp op c = i)
    (hi : (encode i).head? = some (code.setWidth 8)) : op = code := by
  rw [← h, encode_decodeOp_head, Option.some.injEq] at hi
  bv_omega

theorem not_isDeviceFrame_of_mem_ordinaryOps (i : Instr) (h : i ∈ ordinaryOps) : isDeviceFrame i = false := by
  fin_cases h <;> rfl

theorem not_isDeviceFrame_decodeOp (op : BitVec 4) (c : Byte) : isDeviceFrame (decodeOp op c) = false := by
  rcases decodeOp_isOperation op c with h | h
  · exact not_isDeviceFrame_of_mem_ordinaryOps _ h
  · rw [h]
    rfl

theorem writeReg_rxBuf (no : Byte) (idx : Nat) (v : Half) (s : State) : (writeReg no idx v s).rxBuf = s.rxBuf := by
  rw [writeReg_operandsOnly no idx v s]

theorem writeReg_txBuf_of_ne (no : Byte) (idx : Nat) (v : Half) (s : State) (h : no ≠ 0x40) :
    (writeReg no idx v s).txBuf = s.txBuf := by
  unfold writeReg
  split
  case h_13 hno => exact absurd (BitVec.eq_of_toNat_eq hno) h
  all_goals rfl

/-- R46, R61: a host write that takes place writes `TX_BUF` where it names one of its cells. -/
theorem hostWrite_byteMemories (no : Byte) (idx : Nat) (v : Half) (s : State) :
    byteMemories (hostWrite no idx v s) = byteMemories s ∨
      (Ready s ∧ no = 0x40 ∧ (hostWrite no idx v s).rxBuf = s.rxBuf) := by
  cases hb : s.phase.busy with
  | true => exact .inl (congrArg byteMemories (hostWrite_of_busy no idx v s hb))
  | false =>
    have hr := ready_of_not_busy s hb
    rw [hostWrite_of_ready no idx v s hr]
    by_cases hno : no = 0x40
    · exact .inr ⟨hr, hno, writeReg_rxBuf no idx v s⟩
    · exact .inl (Prod.ext (writeReg_txBuf_of_ne no idx v s hno) (writeReg_rxBuf no idx v s))

theorem receiveStep_byteMemories (s : State) :
    byteMemories (receiveStep s) = byteMemories s ∨ (s.phase = .rx ∧ (receiveStep s).txBuf = s.txBuf) := by
  rcases receiveStep_cases s with hs | ⟨hp, -⟩
  · exact .inl (congrArg byteMemories hs)
  · exact .inr ⟨hp, (receiveStep_txBuf_link s).1⟩

/-- The input has bytes taken (R70, R156). -/
def TakesBytes (e : Input) : Prop := e = .rxByte ∨ ∃ bytes, e = .link bytes

/-- All an event that is no instruction can do to the byte memories (R61, R62). -/
theorem eventStep_byteMemories (e : Input) (s t : State) (h : eventStep e s = .next t) :
    byteMemories t = byteMemories s ∨ e = .rst ∨
      (Ready s ∧ (∃ idx v, e = .wr 0x40 idx v) ∧ t.rxBuf = s.rxBuf) ∨
      (s.phase = .rx ∧ TakesBytes e ∧ t.txBuf = s.txBuf) := by
  cases e with
  | rst => exact .inr (.inl rfl)
  | wr no idx v =>
    cases h
    exact (hostWrite_byteMemories no idx v s).imp_right fun ⟨hr, hno, hrx⟩ =>
      .inr (.inl ⟨hr, ⟨idx, v, by rw [hno]⟩, hrx⟩)
  | rd no idx =>
    cases h
    exact .inl (by rw [hostRead_onlyHostData]; rfl)
  | link bytes =>
    cases h
    exact (receiveFrame_byteMemories bytes s).imp_right fun ⟨hp, htx⟩ => .inr (.inr ⟨hp, .inr ⟨bytes, rfl⟩, htx⟩)
  | txReady =>
    obtain ⟨htx, hrx, -⟩ := transmitStep_buffers_link s t h
    exact .inl (Prod.ext htx hrx)
  | rxByte =>
    cases h
    exact (receiveStep_byteMemories s).imp_right fun ⟨hp, htx⟩ => .inr (.inr ⟨hp, .inl rfl, htx⟩)
  | txFail =>
    cases h
    left
    rcases txFailStep_cases s with he | he <;> rw [he]
    rfl
  | rxTimeout =>
    cases h
    left
    rcases timeoutStep_cases s with he | he <;> rw [he]
    rfl
  | _ =>
    cases h
    exact .inl rfl

/-- The input is a reset (R221, R260). -/
def IsReset (e : Input) : Prop := e = .rst ∨ ∃ idx v, e = .wr 0x00 idx v ∧ v.setWidth 4 = 0xF

/-- The input is a host write of a `TX_BUF` cell or issues a formatter (R45, R61). -/
def WritesTxBuf (e : Input) : Prop :=
  ∃ idx v, e = .wr 0x40 idx v ∨ (e = .wr 0x00 idx v ∧ (v.setWidth 4 = 0x5 ∨ v.setWidth 4 = 0x6))

/-- All a step can do to the byte memories (R61, R62). -/
theorem step_byteMemories (s t : State) (e : Input) (rest : List Input) (hin : s.inputs = e :: rest)
    (h : step s = .next t) :
    byteMemories t = byteMemories s ∨ IsReset e ∨ (Ready s ∧ WritesTxBuf e ∧ t.rxBuf = s.rxBuf) ∨
      (s.phase = .rx ∧ TakesBytes e ∧ t.txBuf = s.txBuf) := by
  by_cases hw : ∃ idx v, e = .wr 0x00 idx v
  · obtain ⟨idx, v, rfl⟩ := hw
    rw [step_of_issue s idx v rest hin] at h
    rcases exec_byteMemories _ _ t h with hsame | hi | ⟨hr, hi, hrx⟩ | ⟨-, hi, -⟩
    · exact .inl hsame
    · exact .inr (.inl (.inr ⟨idx, v, rfl, code_of_decodeOp 0xF hi rfl⟩))
    · have hcode := hi.imp (fun hi => code_of_decodeOp 0x5 hi rfl) fun hi => code_of_decodeOp 0x6 hi rfl
      exact .inr (.inr (.inl ⟨hr, ⟨idx, v, .inr ⟨rfl, hcode⟩⟩, hrx⟩))
    · rw [not_isDeviceFrame_decodeOp] at hi
      cases hi
  by_cases hl : ∃ bytes, e = .link bytes
  · obtain ⟨bytes, rfl⟩ := hl
    rcases step_of_link s bytes rest hin with ⟨b, hs⟩ | ⟨b, hs⟩ <;> rw [hs] at h
    · exact .inl (frameOut_byteMemories b (dropInput s) t h)
    · cases h
      exact (receiveFrame_byteMemories b (dropInput s)).imp_right fun ⟨hp, htx⟩ =>
        .inr (.inr ⟨hp, .inr ⟨bytes, rfl⟩, htx⟩)
  · rw [step_of_event s e rest hin (fun idx v he => hw ⟨idx, v, he⟩) (fun bytes he => hl ⟨bytes, he⟩)] at h
    rcases eventStep_byteMemories e (dropInput s) t h with hsame | he | ⟨hr, ⟨idx, v, he⟩, hrx⟩ | hrx
    · exact .inl hsame
    · exact .inr (.inl (.inl he))
    · exact .inr (.inr (.inl ⟨hr, ⟨idx, v, .inl he⟩, hrx⟩))
    · exact .inr (.inr (.inr hrx))

/-- Settles O58: by what an instruction, and what a step, can do to the byte memories. -/
theorem buffersAreWrittenByTheirOwnersOnly : Obligations.BuffersAreWrittenByTheirOwnersOnly := by
  unfold Obligations.BuffersAreWrittenByTheirOwnersOnly
  refine ⟨fun i s t h => ?instruction, fun s t e rest hin h => ?step⟩
  case instruction =>
    rcases exec_byteMemories i s t h with hsame | hi | ⟨-, hi, hrx⟩ | ⟨-, hi, htx⟩
    · exact ⟨fun _ _ => congrArg Prod.snd hsame, fun _ _ _ => congrArg Prod.fst hsame⟩
    · exact ⟨fun hne => absurd hi hne, fun hne => absurd hi hne⟩
    · exact ⟨fun _ _ => hrx, fun _ hkb hms => (hi.elim hkb hms).elim⟩
    · exact ⟨fun _ hd => absurd hi (by simp [hd]), fun _ _ _ => htx⟩
  case step =>
    rcases step_byteMemories s t e rest hin h with hsame | he | ⟨hr, he, hrx⟩ | ⟨hp, he, htx⟩
    · exact ⟨fun hne => absurd (congrArg Prod.fst hsame) hne, fun hne => absurd (congrArg Prod.snd hsame) hne⟩
    · exact ⟨fun _ => .inl he, fun _ => .inl he⟩
    · exact ⟨fun _ => .inr ⟨hr, he⟩, fun hne => absurd hrx hne⟩
    · exact ⟨fun hne => absurd htx hne, fun _ => .inr ⟨hp, he⟩⟩

end Sys2Proof.Machine
end

section
/-! SUPPORT. The baud field of the parameter block (spec/20_memory.md R64). -/

namespace Sys2Proof.Machine

theorem baudGet_toNat (p : Vector Byte 50) :
    (baudGet p).toNat = p[3].toNat * 2 ^ 24 + p[4].toNat * 2 ^ 16 + p[5].toNat * 2 ^ 8 + p[6].toNat := by
  simp only [baudGet, toNat_append_eq]
  omega

theorem baudSet_getElem (p : Vector Byte 50) (v : BitVec 32) (k : Nat) (h : k < 50) :
    (baudSet p v)[k] =
      if k = 6 then v.extractLsb' 0 8
      else if k = 5 then v.extractLsb' 8 8
      else if k = 4 then v.extractLsb' 16 8
      else if k = 3 then v.extractLsb' 24 8
      else p[k] := by
  simp only [baudSet, Vector.getElem_set, eq_comm]

/-- Settles O14: by the four bytes that are set. -/
theorem baudFieldRoundTrip : Obligations.BaudFieldRoundTrip := by
  unfold Obligations.BaudFieldRoundTrip
  intro p v
  refine ⟨?roundTrip, fun k h hk => ?others, baudGet_toNat p⟩
  case roundTrip =>
    apply BitVec.eq_of_toNat_eq
    have := v.isLt
    simp [baudGet_toNat, baudSet_getElem, Nat.shiftRight_eq_div_pow]
    omega
  case others =>
    rw [baudSet_getElem, if_neg (by omega), if_neg (by omega), if_neg (by omega), if_neg (by omega)]

end Sys2Proof.Machine
end

section
/-! SUPPORT. The frame rows and the operation rows of the opcode table, read both ways: what each row's bytes decode to,
and what decodes is a row (spec/30_encoding.md R90 to R100, R107, R110, R112). -/

namespace Sys2Proof.Machine

/-! ### The frame rows -/

/-- The instruction `i` is the frame row with this address, command, payload and checksum byte (R94 to R100, R107). -/
inductive FrameRow : Instr → Byte → Byte → List Byte → Byte → Prop where
  | frame (addr cmd : Byte) (data : List Byte) (chk : Byte) (h : isSpecificKind cmd data.length = false) :
      FrameRow (.frame addr cmd data chk) addr cmd data chk
  | kbReq (addr modifiers reserved : Byte) (keys : List Byte) (chk : Byte) (h : keys.length = 6) :
      FrameRow (.kbReq addr modifiers reserved keys chk) addr cfg.cmdKb (modifiers :: reserved :: keys) chk
  | msReq (addr marker buttons dx dy wheel chk : Byte) :
      FrameRow (.msReq addr marker buttons dx dy wheel chk) addr cfg.cmdMs [marker, buttons, dx, dy, wheel] chk
  | getReq (addr chk : Byte) : FrameRow (.getReq addr chk) addr cfg.cmdGet [] chk
  | getRsp (addr : Byte) (block : List Byte) (chk : Byte) (h : block.length = 50) :
      FrameRow (.getRsp addr block chk) addr (cfg.cmdGet ||| cfg.rspBit) block chk
  | setReq (addr : Byte) (block : List Byte) (chk : Byte) (h : block.length = 50) :
      FrameRow (.setReq addr block chk) addr cfg.cmdSet block chk
  | setRsp (addr status chk : Byte) : FrameRow (.setRsp addr status chk) addr (cfg.cmdSet ||| cfg.rspBit) [status] chk

theorem FrameRow.encode_eq {i : Instr} {addr cmd chk : Byte} {data : List Byte} (h : FrameRow i addr cmd data chk) :
    encode i = frameBytes addr cmd data chk := by
  cases h <;> rfl

theorem FrameRow.frameKind_eq {i : Instr} {addr cmd chk : Byte} {data : List Byte} (h : FrameRow i addr cmd data chk) :
    frameKind addr cmd data chk = i := by
  cases h with
  | frame _ _ _ _ h => simp [frameKind, h]
  | kbReq _ _ _ _ _ h | getRsp _ _ _ h | setReq _ _ _ h => simp [frameKind, isSpecificKind, h]
  | msReq | getReq | setRsp => rfl

/-- R92: a payload of at most 255 bytes is all that a row's own fields leave to check. -/
theorem FrameRow.wellFormed {i : Instr} {addr cmd chk : Byte} {data : List Byte} (h : FrameRow i addr cmd data chk)
    (hl : data.length ≤ 255) : i.wellFormed = true := by
  cases h with
  | frame _ _ _ _ h => simp [Instr.wellFormed, h, hl]
  | kbReq _ _ _ _ _ h | getRsp _ _ _ h | setReq _ _ _ h => simp [Instr.wellFormed, h]
  | msReq | getReq | setRsp => rfl

/-- R94: the commands and lengths that a row more specific than `FRAME` masks. -/
theorem isSpecificKind_cases {cmd : Byte} {n : Nat} (h : isSpecificKind cmd n = true) :
    (cmd = cfg.cmdKb ∧ n = 8) ∨ (cmd = cfg.cmdMs ∧ n = 5) ∨ (cmd = cfg.cmdGet ∧ n = 0) ∨
      (cmd = cfg.cmdGet ||| cfg.rspBit ∧ n = 50) ∨ (cmd = cfg.cmdSet ∧ n = 50) ∨
      (cmd = cfg.cmdSet ||| cfg.rspBit ∧ n = 1) := by
  simpa [isSpecificKind, or_assoc] using h

/-- R107: there is a row for every frame. -/
theorem exists_frameRow (addr cmd : Byte) (data : List Byte) (chk : Byte) : ∃ i, FrameRow i addr cmd data chk := by
  cases hk : isSpecificKind cmd data.length with
  | false => exact ⟨_, .frame addr cmd data chk hk⟩
  | true =>
    rcases isSpecificKind_cases hk with ⟨rfl, hl⟩ | ⟨rfl, hl⟩ | ⟨rfl, hl⟩ | ⟨rfl, hl⟩ | ⟨rfl, hl⟩ | ⟨rfl, hl⟩
    · match data, hl with
      | m :: r :: keys, hl => exact ⟨_, .kbReq addr m r keys chk (by simpa using hl)⟩
    · match data, hl with
      | [m, b, dx, dy, w], _ => exact ⟨_, .msReq addr m b dx dy w chk⟩
    · match data, hl with
      | [], _ => exact ⟨_, .getReq addr chk⟩
    · exact ⟨_, .getRsp addr data chk hl⟩
    · exact ⟨_, .setReq addr data chk hl⟩
    · match data, hl with
      | [status], _ => exact ⟨_, .setRsp addr status chk⟩

theorem frameRow_frameKind (addr cmd : Byte) (data : List Byte) (chk : Byte) :
    FrameRow (frameKind addr cmd data chk) addr cmd data chk := by
  obtain ⟨i, hi⟩ := exists_frameRow addr cmd data chk
  rwa [hi.frameKind_eq]

/-- Every well-formed instruction is a frame row whose payload fits the length byte (R92), or an operation. -/
theorem frameRow_or_operation (i : Instr) (h : i.wellFormed = true) :
    (∃ addr cmd data chk, FrameRow i addr cmd data chk ∧ data.length ≤ 255) ∨ i ∈ ordinaryOps ∨ i = .softReset := by
  cases i with
  | frame addr cmd data chk =>
    simp only [Instr.wellFormed, Bool.and_eq_true, decide_eq_true_eq, Bool.not_eq_true'] at h
    exact .inl ⟨_, _, _, _, .frame addr cmd data chk h.2, h.1⟩
  | kbReq addr m r keys chk =>
    have hl : keys.length = 6 := by simpa [Instr.wellFormed] using h
    exact .inl ⟨_, _, _, _, .kbReq addr m r keys chk hl, by simp [hl]⟩
  | getRsp addr block chk =>
    have hl : block.length = 50 := by simpa [Instr.wellFormed] using h
    exact .inl ⟨_, _, _, _, .getRsp addr block chk hl, by omega⟩
  | setReq addr block chk =>
    have hl : block.length = 50 := by simpa [Instr.wellFormed] using h
    exact .inl ⟨_, _, _, _, .setReq addr block chk hl, by omega⟩
  | msReq addr m b dx dy w chk => exact .inl ⟨_, _, _, _, .msReq addr m b dx dy w chk, by simp⟩
  | getReq addr chk => exact .inl ⟨_, _, _, _, .getReq addr chk, by simp⟩
  | setRsp addr status chk => exact .inl ⟨_, _, _, _, .setRsp addr status chk, by simp⟩
  | _ => exact .inr (by simp [ordinaryOps])

/-! ### The operation rows -/

/-- The encoding of an operation is its own operation word (R110). -/
theorem decode_encode_operation (i : Instr) (h : i ∈ ordinaryOps ∨ i = .softReset) : decode (encode i) = .ok i := by
  rcases h with h | rfl
  · fin_cases h <;> rfl
  · rfl

theorem wellFormed_operation (i : Instr) (h : i ∈ ordinaryOps ∨ i = .softReset) : i.wellFormed = true := by
  rcases h with h | rfl
  · fin_cases h <;> rfl
  · rfl

/-! ### The round trip, both ways -/

/-- Settles O1: the bytes of a frame row decode to its kind, an operation's to what its word selects. -/
theorem decodeOfEncodeGivesTheInstruction : Obligations.DecodeOfEncodeGivesTheInstruction := by
  unfold Obligations.DecodeOfEncodeGivesTheInstruction
  intro i h
  rcases frameRow_or_operation i h with ⟨addr, cmd, data, chk, hrow, hl⟩ | hop
  · rw [hrow.encode_eq, decode_frameBytes addr cmd data chk hl, hrow.frameKind_eq]
  · exact decode_encode_operation i hop

/-- R90, R92: what decodes as a frame is the bytes of a frame that fits its length byte. -/
theorem decodeFrame_ok {bs : List Byte} {i : Instr} (h : decodeFrame bs = .ok i) :
    ∃ addr cmd data chk, data.length ≤ 255 ∧ bs = frameBytes addr cmd data chk ∧ i = frameKind addr cmd data chk := by
  unfold decodeFrame at h
  split at h
  next h0 h1 addr cmd len rest =>
    split at h
    next hh =>
      obtain ⟨rfl, rfl⟩ := hh
      split at h
      next hl =>
        cases h
        have hlen : (rest.take len.toNat).length = len.toNat := List.length_take_of_le (by omega)
        have hrest : rest = rest.take len.toNat ++ [rest.getD len.toNat 0] := by
          have hlast : rest.getD len.toNat 0 = rest[len.toNat] := by simp [hl]
          rw [hlast, List.take_concat_get', List.take_of_length_le (by omega)]
        refine ⟨addr, cmd, _, _, by omega, ?_, rfl⟩
        rw [frameBytes, hlen, BitVec.ofNat_toNat, BitVec.setWidth_eq, ← hrest]
      next => cases h
    next => cases h
  next => cases h

theorem decode_of_length_ne_two (bs : List Byte) (h : bs.length ≠ 2) : decode bs = decodeFrame bs := by
  unfold decode
  split
  · exact absurd rfl h
  · rfl

/-- R110: what two bytes decode to is the operation of a code of 4 bits, which is the first byte. -/
theorem decode_two_ok {b0 b1 : Byte} {i : Instr} (h : decode [b0, b1] = .ok i) :
    ∃ op : BitVec 4, b0 = op.setWidth 8 ∧ i = decodeOp op b1 := by
  simp only [decode] at h
  split at h
  next hlt =>
    cases h
    exact ⟨b0.setWidth 4, by bv_omega, rfl⟩
  next => cases h

/-- Settles O2: two bytes that decode are an operation word, any others the bytes of a frame row. -/
theorem decodedBytesAreTheEncoding : Obligations.DecodedBytesAreTheEncoding := by
  unfold Obligations.DecodedBytesAreTheEncoding
  intro bs i h
  by_cases h2 : bs.length = 2
  · obtain ⟨b0, b1, rfl⟩ := List.length_eq_two.1 h2
    obtain ⟨op, rfl, rfl⟩ := decode_two_ok h
    exact ⟨wellFormed_operation _ (decodeOp_isOperation op b1), absurd h2, fun _ => encode_decodeOp_head op b1⟩
  · rw [decode_of_length_ne_two bs h2] at h
    obtain ⟨addr, cmd, data, chk, hl, rfl, rfl⟩ := decodeFrame_ok h
    have hrow := frameRow_frameKind addr cmd data chk
    exact ⟨hrow.wellFormed hl, fun _ => hrow.encode_eq, (absurd · h2)⟩

/-! ### The sixteen codes -/

/-- R181: no other command is in the table. -/
theorem dispatchEntry_of_unlisted (c : Byte) (hkb : c ≠ 0x02) (hms : c ≠ 0x05) (hget : c ≠ 0x08) (hset : c ≠ 0x09) :
    dispatchEntry c = none := by
  rw [dispatchEntry, if_neg hkb, if_neg hms, if_neg hget, if_neg hset]

/-- Settles O3: a code's row is read off `decodeOp`; the fallback of `DISPATCH` is what the table does not list. -/
theorem everyOperationWordSelectsItsRow : Obligations.EveryOperationWordSelectsItsRow := by
  unfold Obligations.EveryOperationWordSelectsItsRow
  intro c
  refine ⟨rfl, rfl, rfl, rfl, rfl, rfl, rfl, fun hkb hms hget hset => ?unlisted, rfl, rfl, rfl, rfl, rfl, rfl, rfl, rfl,
    rfl, rfl, rfl, rfl⟩
  case unlisted => exact decodeOp_dispatch_of_unlisted c (dispatchEntry_of_unlisted c hkb hms hget hset)

/-- Settles O4: the words as the spec writes them. -/
theorem wordsOfTheSpecDecode : Obligations.WordsOfTheSpecDecode := by
  unfold Obligations.WordsOfTheSpecDecode
  exact ⟨rfl, rfl, rfl, rfl, rfl⟩

end Sys2Proof.Machine
end

section
/-! SUPPORT. What the operations make of a state that accepts them, and of a busy one (spec/30_encoding.md R111, R112,
spec/42_dispatch.md R181, R182). -/

namespace Sys2Proof.Machine

/-! ### Acceptance -/

/-- R111 (c): an operation that is accepted is its own rule on the cleared result. -/
theorem exec_of_ready (i : Instr) (s : State) (hi : i ∈ ordinaryOps) (hr : Ready s) :
    exec i s = .next (opBody i (clearResults s)) := by
  rw [exec_of_mem_ordinaryOps i s hi, accept_of_ready _ s hr]

/-- Settles O22: an operation of a busy codec is not accepted. -/
theorem busyCodecIgnoresOperations : Obligations.BusyCodecIgnoresOperations := by
  unfold Obligations.BusyCodecIgnoresOperations
  intro s hp i hi
  rw [exec_of_mem_ordinaryOps i s hi, accept_of_busy _ s (busy_of_tx_or_rx s hp)]

/-- Settles O15: the rule of `SEND` on the cleared result. -/
theorem sendBeginsTheTransmitPhase : Obligations.SendBeginsTheTransmitPhase := by
  unfold Obligations.SendBeginsTheTransmitPhase
  exact fun s hr => exec_of_ready .send s (by simp [ordinaryOps]) hr

/-- Settles O16: the rule of `RECV` on the cleared result. -/
theorem recvBeginsTheReceivePhase : Obligations.RecvBeginsTheReceivePhase := by
  unfold Obligations.RecvBeginsTheReceivePhase
  exact fun s hr => ⟨_, rxNeed_toNat s.expLen, exec_of_ready .recv s (by simp [ordinaryOps]) hr⟩

/-- Settles O21: each of these operations is the refusal. -/
theorem reservedAndUnlistedRaiseBadop : Obligations.ReservedAndUnlistedRaiseBadop := by
  unfold Obligations.ReservedAndUnlistedRaiseBadop
  intro s hr i hi
  fin_cases hi
  all_goals exact exec_of_ready _ s (by simp [ordinaryOps]) hr

/-! ### `DISPATCH` -/

/-- R47, R111, R182: a step on a write of 4 to `OP` that is accepted. -/
theorem step_issues_dispatch (s : State) (idx : Nat) (v : Half) (rest : List Input)
    (hin : s.inputs = .wr 0x00 idx v :: rest) (hv : v.setWidth 4 = 0x4) (hr : Ready s) :
    step s = .next (opBody (decodeOp 0x4 s.txCmd) (clearResults { s with inputs := rest })) := by
  have hop : decodeOp 0x4 s.txCmd ∈ ordinaryOps :=
    (decodeOp_isOperation _ _).resolve_right (decodeOp_ne_softReset _ _ (by decide))
  rw [step_of_issue s idx v rest hin, hv, dropInput_eq hin]
  exact exec_of_ready _ { s with inputs := rest } hop hr

section
variable (e : DispatchEntry) (s : State)

theorem dispatchArm_of_length_ne (hl : s.txLen ≠ e.reqLen) : dispatchArm e s = raise .badop 0 s := if_neg hl

theorem dispatchArm_of_no_await (hl : s.txLen = e.reqLen) (ha : e.await = false) :
    dispatchArm e s = { s with opLatch := ⟨false, e.chkStatus⟩, txIdx := 0, txSum := 0, phase := .tx } := by
  simpa [hl, ha] using dispatchArm_cases e s

theorem dispatchArm_of_await (n : Byte) (hl : s.txLen = e.reqLen) (ha : e.await = true) (hn : e.rspLen = some n) :
    dispatchArm e s = { s with
      opLatch := ⟨true, e.chkStatus⟩
      expCmd := s.txCmd
      expLen := n
      link := s.link ++ [.rxFlush]
      rxQueue := []
      txIdx := 0
      txSum := 0
      phase := .tx } := by
  simpa [hl, ha, hn] using dispatchArm_cases e s

end

/-- Settles O20: a step on the write runs the arm of the table's entry, or refuses where there is none. -/
theorem dispatchFollowsItsTable : Obligations.DispatchFollowsItsTable := by
  unfold Obligations.DispatchFollowsItsTable
  refine ⟨⟨rfl, rfl, rfl, rfl, dispatchEntry_of_unlisted⟩, fun s idx v rest hin hv hr => ?_⟩
  have hstep := step_issues_dispatch s idx v rest hin hv hr
  have hlisted (e : DispatchEntry) (he : dispatchEntry s.txCmd = some e) :
      step s = .next (dispatchArm e (clearResults { s with inputs := rest })) := by
    rw [hstep, opBody_dispatch_of_listed s.txCmd e _ he]
  refine ⟨fun hnone => ?unlisted, fun e he hl => ?length, fun e he hl ha => ?noResponse,
    fun e n he hl ha hn => ?response⟩
  case unlisted =>
    rw [hstep, decodeOp_dispatch_of_unlisted _ hnone]
    rfl
  case length =>
    exact (hlisted e he).trans (congrArg _ (dispatchArm_of_length_ne e (clearResults { s with inputs := rest }) hl))
  case noResponse =>
    exact (hlisted e he).trans (congrArg _ (dispatchArm_of_no_await e (clearResults { s with inputs := rest }) hl ha))
  case response =>
    exact (hlisted e he).trans (congrArg _ (dispatchArm_of_await e (clearResults { s with inputs := rest }) n hl ha hn))

end Sys2Proof.Machine
end

section
/-! SUPPORT. The response command (spec/30_encoding.md R91). -/

namespace Sys2Proof.Machine

theorem rspCmd_getLsbD_seven (c : Byte) : (rspCmd c).getLsbD 7 = true := by
  simp [rspCmd]

theorem rspCmd_getLsbD_of_lt (c : Byte) (k : Nat) (h : k < 7) : (rspCmd c).getLsbD k = c.getLsbD k := by
  have hbit : ∀ k < 7, (cfg.rspBit).getLsbD k = false := by decide
  rw [rspCmd, BitVec.getLsbD_or, hbit k h, Bool.or_false]

theorem rspCmd_of_response (c : Byte) (h : c.getLsbD 7 = true) : rspCmd c = c := by
  apply BitVec.eq_of_getLsbD_eq
  intro k hk
  rcases Nat.lt_or_eq_of_le (Nat.le_of_lt_succ hk) with hlt | rfl
  · exact rspCmd_getLsbD_of_lt c k hlt
  · rw [rspCmd_getLsbD_seven, h]

/-- R181: the commands of the table are requests, and the responses it awaits are two. -/
theorem rspCmd_of_listed (c : Byte) (e : DispatchEntry) (h : dispatchEntry c = some e) :
    c.getLsbD 7 = false ∧ (e.await = true → rspCmd c = 0x88 ∨ rspCmd c = 0x89) := by
  unfold dispatchEntry at h
  repeat' split at h
  all_goals cases h
  all_goals
    subst_vars
    decide

/-- Settles O6: by the bits of the disjunction, and over the rows of the table. -/
theorem responseCommandSetsBitSeven : Obligations.ResponseCommandSetsBitSeven := by
  unfold Obligations.ResponseCommandSetsBitSeven
  exact ⟨fun _ => rfl, fun c => ⟨rspCmd_getLsbD_seven c, rspCmd_getLsbD_of_lt c⟩, rspCmd_of_response,
    rfl, rfl, rfl, rfl, rfl, rspCmd_of_listed, fun _ => beq_iff_eq⟩

end Sys2Proof.Machine
end

section
/-! SUPPORT. What the formatters write (spec/43_payload_format.md R200, R201, R203). -/

namespace Sys2Proof.Machine

/-- What a formatter that writes the report `bs` leaves in `TX_BUF`: the report, and the cells behind it as before. -/
theorem cells_of_report (m : Mem) (bs : List Byte) (hw : Memory.wf cfg.txBufCells m = true) (hl : bs.length ≤ 255) :
    memRange (memWriteList cfg.txBufCells m 0 bs) 0 bs.length = some bs ∧
      (∀ j, j < bs.length → memRead (memWriteList cfg.txBufCells m 0 bs) j = bs[j]?) ∧
      ∀ a, bs.length ≤ a → memRead (memWriteList cfg.txBufCells m 0 bs) a = memRead m a := by
  have hfit : 0 + bs.length ≤ cfg.txBufCells := by rwa [Nat.zero_add]
  have hrange := memRange_memWriteList cfg.txBufCells m 0 [] bs hw rfl hfit
  rw [Nat.zero_add, List.nil_append] at hrange
  refine ⟨hrange, fun j hj => ?inside, fun a ha => ?behind⟩
  case inside => rw [← memRange_get _ 0 _ bs hrange j hj, Nat.zero_add]
  case behind => rw [memRead_memWriteList _ bs m 0 a hw hfit, if_neg (by omega)]

theorem kbPayload_key (m : Byte) (ks : List Byte) (j : Nat) (h : j < 6) :
    (kbPayload m ks)[2 + j]? = some (ks.getD j 0) := by
  interval_cases j <;> rfl

/-- R200: only the first six codes of the list are reported. -/
theorem kbPayload_take_six (m : Byte) (ks : List Byte) : kbPayload m (ks.take 6) = kbPayload m ks := by
  simp [kbPayload, List.getD_eq_getElem?_getD]

/-- R201: the key code of slot `j` is a stored one while `j` is below the count, and 0x00 beyond. -/
theorem storedKeys_getD (s : State) (j : Nat) (h : j < 6) :
    (s.kbKey.toList.take (min s.kbCnt.toNat 6)).getD j 0 = if j < s.kbCnt.toNat then s.kbKey[j] else 0x00 := by
  by_cases hj : j < s.kbCnt.toNat
  · simp [List.getD_eq_getElem?_getD, h, hj]
  · simp [List.getD_eq_getElem?_getD, hj]

@[simp] theorem kbReport_length (s : State) : s.kbReport.length = 8 := rfl

@[simp] theorem msReport_length (s : State) : s.msReport.length = 5 := rfl

/-- Settles O23: the report is `kb_payload` of the stored codes, which are the first six of the host's list. -/
theorem fmtKbWritesTheKeyboardReport : Obligations.FmtKbWritesTheKeyboardReport := by
  unfold Obligations.FmtKbWritesTheKeyboardReport
  intro s hr hw
  obtain ⟨hrange, hcell, hbehind⟩ := cells_of_report s.txBuf s.kbReport hw (by simp)
  refine ⟨_, exec_of_ready .fmtKb s (by simp [ordinaryOps]) hr, rfl, hcell 0 (by simp), hcell 1 (by simp),
    fun j hj => ?key, fun ks _ hks => ?report, hbehind⟩
  case key =>
    rw [← storedKeys_getD s j hj, ← kbPayload_key s.kbMod _ j hj]
    exact hcell (2 + j) (by rw [kbReport_length]; omega)
  case report =>
    rw [← kbPayload_take_six, hks]
    exact hrange

/-- Settles O24: the report is `ms_payload` of the operands. -/
theorem fmtMsRelWritesTheMouseReport : Obligations.FmtMsRelWritesTheMouseReport := by
  unfold Obligations.FmtMsRelWritesTheMouseReport
  refine ⟨by decide, by decide, by decide, by decide, fun s hr hw => ?_⟩
  obtain ⟨hrange, hcell, hbehind⟩ := cells_of_report s.txBuf s.msReport hw (by simp)
  exact ⟨_, exec_of_ready .fmtMsRel s (by simp [ordinaryOps]) hr, rfl, hcell 0 (by simp), hcell 1 (by simp),
    hcell 2 (by simp), hcell 3 (by simp), hcell 4 (by simp), hrange, hbehind⟩

end Sys2Proof.Machine
end

section
/-! SUPPORT. A frame from the device that completes a read, and the response to `SET_PARA_CFG`
(spec/41_frame_receive.md R156, R158, spec/42_dispatch.md R187). -/

namespace Sys2Proof.Machine

/-- R71, R156, R158: bytes with which exactly the missing ones are there are read in full and judged. -/
theorem receiveFrame_readAndJudged (s : State) (old bytes : List Byte) (h : Receiving old s)
    (hn : old.length + s.rxQueue.length + bytes.length = s.expLen.toNat + 6) :
    ReadAndJudged (old ++ (s.rxQueue ++ bytes)) (s.rxQueue.length + bytes.length) [] s (receiveFrame bytes s) := by
  have hread := receiveMany_readAndJudged (arriveBytes bytes s) old (s.rxQueue ++ bytes) [] h (by simp)
    (by rw [List.length_append, ← Nat.add_assoc]; exact hn) (s.rxQueue.length + bytes.length) (by simp)
  rwa [List.length_append] at hread

/-- Settles O31: the frame's bytes join those that wait, and all are read. -/
theorem deviceFrameIsReadAndJudged : Obligations.DeviceFrameIsReadAndJudged := by
  unfold Obligations.DeviceFrameIsReadAndJudged
  intro i s old hi h hn
  exact ⟨_, exec_of_isDeviceFrame i s hi, receiveFrame_readAndJudged s old (encode i) h hn⟩

/-- R156, R158: from the start of a receive phase, a response of the length expected is read and judged. -/
theorem receiveFrame_of_awaitsResponse (s : State) (r : List Byte) (h : AwaitsResponse s)
    (hl : r.length = s.expLen.toNat + 6) : ReadAndJudged r r.length [] s (receiveFrame r s) := by
  have hreceiving := receiving_of_awaitsResponse s h
  obtain ⟨-, -, -, -, hq, -⟩ := h
  have hread := receiveFrame_readAndJudged s [] r hreceiving (by simpa [hq] using hl)
  simpa [hq] using hread

/-- Settles O34: the response passes the four checks, so its status byte decides. -/
theorem setResponseStatusIsTested : Obligations.SetResponseStatusIsTested := by
  unfold Obligations.SetResponseStatusIsTested
  intro s addr status chk ha hcmd hlen hchk hsum
  have hf : encode (.setRsp addr status chk)
      = frameHead addr (rspCmd s.expCmd) [status] ++ [sum8 (frameHead addr (rspCmd s.expCmd) [status])] := by
    rw [hcmd, hsum]
    rfl
  have hl : s.expLen = BitVec.ofNat 8 [status].length := hlen
  have hchecks : checksOf (encode (.setRsp addr status chk)) s.expCmd s.expLen = ⟨true, true, true, true⟩ := by
    rw [hf, hl]
    exact checksOf_frame addr s.expCmd [status]
  have hparse : parseResponse (encode (.setRsp addr status chk)) s.expCmd s.expLen = some (.ok [status]) := by
    rw [hf, hl]
    exact parseResponse_frame addr s.expCmd [status] (by simp)
  have hstatus : (encode (.setRsp addr status chk)).getD 5 0 = status := rfl
  refine ⟨_, exec_of_isDeviceFrame _ s rfl, ?_⟩
  obtain ⟨ht, -, -, hjudge⟩ :=
    receiveFrame_of_awaitsResponse s (encode (.setRsp addr status chk)) ha (by rw [hlen]; rfl)
  simp only [hparse, hchk, hstatus, true_and] at hjudge
  rw [hchecks] at ht
  refine ⟨fun hok => ?accepted, fun hrej => ?rejected⟩
  case accepted =>
    rw [if_neg (not_not.2 hok)] at hjudge
    obtain ⟨hresult, hcode, hstat, hseen, -⟩ := hjudge
    rw [hresult, hcode, hstat, hseen] at ht
    exact ht
  case rejected =>
    rw [if_pos hrej] at hjudge
    obtain ⟨hresult, hcode, hstat, hseen⟩ := hjudge
    rw [hresult, hcode, hstat, hseen] at ht
    exact ht

end Sys2Proof.Machine
end

section
/-! SUPPORT. The checksum and the frame it closes (spec/40_frame_transmit.md R130, R131). -/

namespace Sys2Proof.Machine

theorem sum8_perm {s t : List Byte} (h : s.Perm t) : sum8 s = sum8 t := h.foldl_eq 0

theorem sum8_toNat (s : List Byte) : (sum8 s).toNat = (s.map BitVec.toNat).sum % 256 := by
  induction s with
  | nil => rfl
  | cons b s ih => rw [sum8_cons, BitVec.toNat_add, ih, List.map_cons, List.sum_cons, Nat.add_mod_mod]

/-- R131: the checksum of a list with a byte singled out. -/
theorem sum8_append_cons (s t : List Byte) (b : Byte) : sum8 (s ++ b :: t) = sum8 s + sum8 t + b := by
  rw [sum8_append, sum8_cons, add_comm b, add_assoc]

/-- Settles O7: the laws of `sum8`, and `TX_SUM` before the checksum. -/
theorem checksumLaws : Obligations.ChecksumLaws := by
  unfold Obligations.ChecksumLaws
  refine ⟨sum8_nil, sum8_append_one, sum8_append, fun _ _ => sum8_perm, fun s t b => ?_, sum8_toNat, fun _ => rfl,
    fun s b h => by rw [sendByte_inside b s h]⟩
  rw [sum8_append_cons, sum8_append_cons, add_assoc _ b]

/-- Settles O8: a payload that fits is framed by `buildFrame_eq`, a longer one is not. -/
theorem buildFrameBytes : Obligations.BuildFrameBytes := by
  unfold Obligations.BuildFrameBytes
  refine ⟨by decide, fun a c p => ?_⟩
  have hshort (h : p.length ≤ 255) := buildFrame_eq a c p h
  have hlong (h : 255 < p.length) : buildFrame a c p = none := if_neg (Nat.not_le.2 h)
  refine ⟨fun f hf => ?_, hshort, hlong⟩
  rcases Nat.lt_or_ge 255 p.length with h | h
  · rw [hlong h] at hf
    cases hf
  · rw [hshort h] at hf
    cases hf
    simp [frameHead_length]

end Sys2Proof.Machine
end

section
/-! SUPPORT. Single events of phase `TX` and a whole `SEND` (spec/40_frame_transmit.md R133 to R136). -/

namespace Sys2Proof.Machine

/-! ### The step on an event -/

/-- R190: an event that is no instruction takes effect with itself consumed. -/
theorem step_of_consumed_event (s : State) (e : Input) (rest : List Input) (h : s.inputs = e :: rest)
    (hw : ∀ idx v, e ≠ .wr 0x00 idx v) (hl : ∀ bytes, e ≠ .link bytes) :
    step s = eventStep e { s with inputs := rest } := by
  rw [step_of_event s e rest h hw hl, dropInput_eq h]

/-- Settles O38: `TxFail` raises `E_IO` in phase `TX` only. -/
theorem writeFailureEndsWithIoError : Obligations.WriteFailureEndsWithIoError := by
  unfold Obligations.WriteFailureEndsWithIoError
  intro s rest hin
  have hstep : step s = .next (txFailStep { s with inputs := rest }) :=
    step_of_consumed_event s _ rest hin (by simp) (by simp)
  refine ⟨fun hp => ?_, fun hp => ?_⟩
  · rw [hstep, txFailStep, if_pos hp]
    rfl
  · rw [hstep, txFailStep, if_neg hp]

/-! ### A byte is sent -/

/-- R133: in phase `TX`, within the frame, a readiness event sends the byte of `TX_IDX`. -/
theorem step_sends_byte (s : State) (rest : List Input) (b : Byte) (h : s.inputs = .txReady :: rest)
    (hp : s.phase = .tx) (hi : s.txIdx.toNat ≤ s.txLen.toNat + 5) (hb : frameByte s s.txIdx.toNat = some b) :
    step s = .next (sendByte b { s with inputs := rest }) := by
  rw [step_of_consumed_event s _ rest h (by simp) (by simp)]
  exact transmitStep_of_byte { s with inputs := rest } b hp hi hb

/-- R134 at the checksum, nothing awaited: the checksum and the flush go out, and the operation ends. -/
theorem sendByte_ends_operation (b : Byte) (s : State) (h : s.txIdx.toNat = s.txLen.toNat + 5)
    (ha : s.opLatch.await = false) :
    sendByte b s = { s with
      link := s.link ++ [.txByte b, .txFlush]
      txIdx := s.txIdx + 1
      result := .ok
      phase := .done } := by
  rw [sendByte_checksum b s h, endFrame_done]
  · simp
  · exact ha

/-- R134 at the checksum, a response awaited: the checksum and the flush go out, and the receive phase begins. -/
theorem sendByte_begins_receive (b : Byte) (s : State) (h : s.txIdx.toNat = s.txLen.toNat + 5)
    (ha : s.opLatch.await = true) :
    sendByte b s = { s with
      link := s.link ++ [.txByte b, .txFlush]
      txIdx := s.txIdx + 1
      rxNeed := s.expLen.setWidth 9 + 6
      rxIdx := 0
      rxSum := 0
      phase := .rx } := by
  rw [sendByte_checksum b s h, endFrame_await]
  · simp
  · exact ha

/-- Settles O36: the seven positions of a frame name `frameByte`; then `sendByte` before and at the checksum. -/
theorem transportReadinessSendsTheNextByte : Obligations.TransportReadinessSendsTheNextByte := by
  unfold Obligations.TransportReadinessSendsTheNextByte
  intro s rest b hin hp h0 h1 h2 h3 h4 hpayload hsum
  have hbyte (hi : s.txIdx.toNat ≤ s.txLen.toNat + 5) : frameByte s s.txIdx.toNat = some b := by
    rcases Nat.lt_or_ge s.txIdx.toNat 5 with hlt | h5
    · interval_cases hk : s.txIdx.toNat
      · rw [h0 (BitVec.eq_of_toNat_eq hk)]; rfl
      · rw [h1 (BitVec.eq_of_toNat_eq hk)]; rfl
      · rw [h2 (BitVec.eq_of_toNat_eq hk)]; rfl
      · rw [h3 (BitVec.eq_of_toNat_eq hk)]; rfl
      · rw [h4 (BitVec.eq_of_toNat_eq hk)]; rfl
    · rcases Nat.lt_or_eq_of_le hi with hlt | heq
      · rw [frameByte_of_payload s _ h5 hlt, hpayload h5 (by omega)]
      · rw [heq, frameByte_of_checksum, hsum heq]
  have hstep (hi : s.txIdx.toNat ≤ s.txLen.toNat + 5) := step_sends_byte s rest b hin hp hi (hbyte hi)
  refine ⟨fun hlt => ?inside, fun heq ha => ?done, fun heq ha => ?await⟩
  case inside => rw [hstep hlt.le, sendByte_inside b { s with inputs := rest } hlt]
  case done => rw [hstep heq.le, sendByte_ends_operation b { s with inputs := rest } heq ha]
  case await => rw [hstep heq.le, sendByte_begins_receive b { s with inputs := rest } heq ha]

/-! ### The end of phase `TX` -/

/-- R133, R134: with the payload written, the bytes that remain end the phase. -/
theorem transmitMany_ends_phase (n : Nat) (s : State) (hp : s.phase = .tx) (hw : PayloadWritten s)
    (hn : s.txIdx.toNat + (n + 1) = s.txLen.toNat + 6) :
    ∃ t, transmitMany (n + 1) s = .next t ∧ t.phase = (if s.opLatch.await then .rx else .done) ∧ t.inputs = s.inputs := by
  induction n generalizing s with
  | zero =>
    have heq : s.txIdx.toNat = s.txLen.toNat + 5 := by omega
    obtain ⟨b, hb⟩ := Option.isSome_iff_exists.1 (frameByte_isSome s _ hw heq.le)
    rw [transmitMany, transmitStep_of_byte s b hp heq.le hb]
    refine ⟨sendByte b s, rfl, ?_⟩
    cases ha : s.opLatch.await with
    | false =>
      rw [sendByte_ends_operation b s heq ha]
      exact ⟨rfl, rfl⟩
    | true =>
      rw [sendByte_begins_receive b s heq ha]
      exact ⟨rfl, rfl⟩
  | succ n ih =>
    have hlt : s.txIdx.toNat < s.txLen.toNat + 5 := by omega
    obtain ⟨b, hb⟩ := Option.isSome_iff_exists.1 (frameByte_isSome s _ hw hlt.le)
    have hidx := count_succ s.txIdx (by have := s.txLen.isLt; omega)
    rw [transmitMany, transmitStep_of_byte s b hp hlt.le hb, sendByte_inside b s hlt]
    exact ih { s with link := _, txSum := _, txIdx := s.txIdx + 1 } hp hw (by simp only [hidx]; omega)

/-- Settles O49: the readiness events that remain are as many transmit steps. -/
theorem transmitPhaseEnds : Obligations.TransmitPhaseEnds := by
  unfold Obligations.TransmitPhaseEnds
  intro s rest hinv hp hw hin
  have hwithin := hinv.txWithin hp
  obtain ⟨n, hn⟩ : ∃ n, s.txIdx.toNat + (n + 1) = s.txLen.toNat + 6 := ⟨s.txLen.toNat + 5 - s.txIdx.toNat, by omega⟩
  rw [run_txReady _ rest s hin, show s.txLen.toNat + 6 - s.txIdx.toNat = n + 1 by omega]
  exact transmitMany_ends_phase n (withInputs rest s) hp hw hn

/-! ### A whole `SEND` -/

/-- What an accepted `SEND` makes of a state (R132). -/
def sendAccepted (s : State) : State :=
  { acceptedState s with opLatch := ⟨false, false⟩, txIdx := 0, txSum := 0, phase := .tx }

theorem step_issues_send (s : State) (idx : Nat) (v : Half) (rest : List Input) (hr : Ready s) (hv : v.setWidth 4 = 0x1)
    (hin : s.inputs = .wr 0x00 idx v :: rest) : step s = .next (sendAccepted { s with inputs := rest }) := by
  rw [step_of_issue s idx v rest hin, hv, dropInput_eq hin]
  exact sendBeginsTheTransmitPhase { s with inputs := rest } hr

/-- Settles O45: the issue of `SEND`, and then its frame handed over. -/
theorem completedSendEmitsTheBuiltFrame : Obligations.CompletedSendEmitsTheBuiltFrame := by
  unfold Obligations.CompletedSendEmitsTheBuiltFrame
  intro s idx v rest p f hr hv hin hp hf
  have hframe := operandFrame_of_payload hp hf
  have hissue := step_issues_send s idx v _ hr hv hin
  have hrun := (run_of_step _ s _ hissue).trans
    (run_sends_frame (sendAccepted { s with inputs := _ }) f rest rfl rfl rfl hframe rfl)
  rw [handedOver, operandFrame_length s f hframe] at hrun
  exact hrun

end Sys2Proof.Machine
end

section
/-! SUPPORT. What `parse_response` makes of a response, of a built frame, and of a response changed on the way
(spec/41_frame_receive.md R150 to R153, R160). -/

namespace Sys2Proof.Machine

/-! ### The four checks and the outcome -/

theorem hdrOk_iff (s : List Byte) : hdrOk s = true ↔ s.getD 0 0 = 0x57 ∧ s.getD 1 0 = 0xAB := by
  simp only [hdrOk, Bool.and_eq_true, beq_iff_eq]

theorem cmdOk_iff (s : List Byte) (ec : Byte) : cmdOk s ec = true ↔ s.getD 3 0 = rspCmd ec := beq_iff_eq

theorem lenOk_iff (s : List Byte) (el : Byte) : lenOk s el = true ↔ s.getD 4 0 = el := beq_iff_eq

theorem sumOk_iff (s : List Byte) : sumOk s = true ↔ s.getD (s.length - 1) 0 = sum8 (s.take (s.length - 1)) :=
  beq_iff_eq

/-- U2. -/
theorem parseResponse_of_other_length (s : List Byte) (ec el : Byte) (h : s.length ≠ el.toNat + 6) :
    parseResponse s ec el = none := if_neg h

/-- R152: the outcome on the domain, one check after the other. -/
theorem parseResponse_eq_ite (s : List Byte) (ec el : Byte) (h : s.length = el.toNat + 6) :
    parseResponse s ec el = some
      (if ¬hdrOk s = true then .protocolError .header
        else if ¬cmdOk s ec = true then .protocolError .command
        else if ¬lenOk s el = true then .protocolError .length
        else if ¬sumOk s = true then .protocolError .checksum
        else .ok ((s.drop 5).take el.toNat)) := by
  rw [parseResponse, if_pos h, Checks.firstFailure]
  simp only [checksOf, Bool.not_eq_true', Bool.not_eq_true]
  split_ifs <;> rfl

theorem firstFailure_eq_none_iff (c : Checks) :
    c.firstFailure = none ↔ c.hdrOk = true ∧ c.cmdOk = true ∧ c.lenOk = true ∧ c.sumOk = true := by
  obtain ⟨hdr, cmd, len, sum⟩ := c
  revert hdr cmd len sum
  decide

/-- R152: what it takes for a response to be accepted. -/
theorem parseResponse_ok_iff (s : List Byte) (ec el : Byte) (p : List Byte) :
    parseResponse s ec el = some (.ok p) ↔
      s.length = el.toNat + 6 ∧ (hdrOk s = true ∧ cmdOk s ec = true ∧ lenOk s el = true ∧ sumOk s = true) ∧
        (s.drop 5).take el.toNat = p := by
  by_cases h : s.length = el.toNat + 6
  · have hnone := firstFailure_eq_none_iff (checksOf s ec el)
    simp only [checksOf] at hnone
    rw [parseResponse, if_pos h, checksOf, ← hnone]
    cases hff : (Checks.mk (hdrOk s) (cmdOk s ec) (lenOk s el) (sumOk s)).firstFailure <;> simp [h]
  · simp [parseResponse_of_other_length s ec el h, h]

/-- Settles O10: the chain of the four checks, each written out. -/
theorem firstFailingFieldIsNamed : Obligations.FirstFailingFieldIsNamed := by
  unfold Obligations.FirstFailingFieldIsNamed
  refine ⟨by decide, by decide, by decide, parseResponse_of_other_length, fun s ec el h => ⟨?chain, ?accepted⟩⟩
  case chain =>
    have hsum : sumOk s = true ↔ s.getD (el.toNat + 5) 0 = sum8 (s.take (el.toNat + 5)) := by
      rw [sumOk_iff, h]
      rfl
    rw [parseResponse_eq_ite s ec el h]
    simp only [hdrOk_iff, cmdOk_iff, lenOk_iff, hsum]
    rfl
  case accepted => simp only [parseResponse_ok_iff, h, true_and, exists_and_left, exists_eq', and_true]

/-! ### The round trip of a built frame -/

/-- R130: every built frame is its head and the checksum of it, with a payload that fits the length byte. -/
theorem buildFrame_eq_some {a c : Byte} {p f : List Byte} (h : buildFrame a c p = some f) :
    p.length ≤ 255 ∧ f = frameHead a c p ++ [sum8 (frameHead a c p)] := by
  unfold buildFrame at h
  split at h
  · cases h
    exact ⟨‹_›, rfl⟩
  · cases h

theorem lengthByte_toNat (n : Nat) (h : n ≤ 255) : (BitVec.ofNat 8 n).toNat = n := by
  rw [BitVec.toNat_ofNat]
  omega

/-- The trailing byte is checked against all before it (R151). -/
theorem sumOk_append_one (s : List Byte) (b : Byte) : sumOk (s ++ [b]) = true ↔ b = sum8 s := by
  simp [sumOk_iff]

/-- R91: the response awaited depends on the low seven bits of the request's command only. -/
theorem rspCmd_requestOf (c : Byte) : rspCmd (requestOf c) = rspCmd c := by
  apply BitVec.eq_of_getLsbD_eq
  intro k hk
  rcases Nat.lt_or_eq_of_le (Nat.le_of_lt_succ hk) with hlt | rfl
  · have hmask : ∀ k < 7, (0x7F : Byte).getLsbD k = true := by decide
    rw [rspCmd_getLsbD_of_lt _ k hlt, rspCmd_getLsbD_of_lt _ k hlt, requestOf, BitVec.getLsbD_and, hmask k hlt,
      Bool.and_true]
  · rw [rspCmd_getLsbD_seven, rspCmd_getLsbD_seven]

section
variable (a c : Byte) (p : List Byte)

theorem hdrOk_frame : hdrOk (frameHead a c p ++ [sum8 (frameHead a c p)]) = true := rfl

theorem lenOk_frame : lenOk (frameHead a c p ++ [sum8 (frameHead a c p)]) (BitVec.ofNat 8 p.length) = true :=
  (lenOk_iff _ _).2 rfl

theorem sumOk_frame : sumOk (frameHead a c p ++ [sum8 (frameHead a c p)]) = true := (sumOk_append_one _ _).2 rfl

theorem cmdOk_frame_iff (ec : Byte) :
    cmdOk (frameHead a c p ++ [sum8 (frameHead a c p)]) ec = true ↔ c = rspCmd ec := cmdOk_iff _ _

variable (hp : p.length ≤ 255)
include hp

/-- R150, R153 (a). -/
theorem splitFrame_frame :
    splitFrame (frameHead a c p ++ [sum8 (frameHead a c p)])
      = some ⟨a, c, BitVec.ofNat 8 p.length, p, sum8 (frameHead a c p)⟩ := by
  have hlen : (frameHead a c p ++ [sum8 (frameHead a c p)]).getD 4 0 = BitVec.ofNat 8 p.length := rfl
  rw [splitFrame, hlen, lengthByte_toNat _ hp, if_pos (by simp [frameHead_length])]
  simp [frameHead, Nat.add_comm 5]

/-- R153: a built frame is accepted exactly where its command is the one awaited, and delivers its payload. -/
theorem parseResponse_frame_ok_iff (ec : Byte) (q : List Byte) :
    parseResponse (frameHead a c p ++ [sum8 (frameHead a c p)]) ec (BitVec.ofNat 8 p.length) = some (.ok q) ↔
      c = rspCmd ec ∧ p = q := by
  rw [parseResponse_ok_iff, hdrOk_frame, cmdOk_frame_iff, lenOk_frame, sumOk_frame, lengthByte_toNat _ hp]
  simp [frameHead]

end

/-- Settles O9: the cut of a built frame, its three checks that always hold, and the one of its command. -/
theorem builtFrameRoundTrip : Obligations.BuiltFrameRoundTrip := by
  unfold Obligations.BuiltFrameRoundTrip
  intro a c p f hf
  obtain ⟨hp, rfl⟩ := buildFrame_eq_some hf
  have haccepted := parseResponse_frame_ok_iff a c p hp
  refine ⟨?cut, sumOk_frame a c p, hdrOk_frame a c p, lenOk_frame a c p, fun ec => ?awaited, fun ec q hc hq => ?request,
    fun hc => ⟨?itself, ?low⟩⟩
  case cut => rw [← frameHead_length a c p, List.take_left, splitFrame_frame a c p hp]
  case awaited => exact (haccepted ec p).trans (and_iff_left rfl)
  case request =>
    obtain ⟨hcmd, -⟩ := (haccepted ec q).1 hq
    rw [hcmd, rspCmd_getLsbD_seven] at hc
    cases hc
  case itself => exact (haccepted c p).2 ⟨(rspCmd_of_response c hc).symm, rfl⟩
  case low => exact (haccepted _ p).2 ⟨((rspCmd_requestOf c).trans (rspCmd_of_response c hc)).symm, rfl⟩

/-! ### Changes on the way -/

/-- A list's sum follows the change of one of its bytes (R131). -/
theorem sum8_set (s : List Byte) (k : Nat) (b : Byte) (hk : k < s.length) :
    s.getD k 0 + sum8 (s.set k b) = b + sum8 s := by
  have hperm := sum8_perm (s.getD_set_perm_cons k b)
  rw [sum8_cons, sum8_cons] at hperm
  simpa [hk] using hperm

/-- R160 (a): a byte changed alone shows in the checksum, whether it is summed or the trailing one. -/
theorem sumOk_set_of_ne (f : List Byte) (k : Nat) (b : Byte) (h : sumOk f = true) (hk : k < f.length)
    (hb : b ≠ f.getD k 0) : sumOk (f.set k b) = false := by
  rcases f.eq_nil_or_concat' with rfl | ⟨s, last, rfl⟩
  · exact absurd hk (Nat.not_lt_zero k)
  rw [sumOk_append_one] at h
  rw [← Bool.not_eq_true]
  rcases Nat.lt_or_ge k s.length with hlt | hge
  · rw [List.getD_append _ _ _ _ hlt] at hb
    rw [List.set_append_left _ _ hlt, sumOk_append_one, h]
    intro hsum
    have hset := sum8_set s k b hlt
    rw [← hsum] at hset
    exact hb (add_right_cancel hset).symm
  · obtain rfl : k = s.length := by
      rw [List.length_append, List.length_singleton] at hk
      omega
    rw [List.getD_append_right _ _ _ _ hge, Nat.sub_self] at hb
    rw [List.set_append_right _ _ hge, Nat.sub_self]
    exact fun hsum => hb (((sumOk_append_one s b).1 hsum).trans h.symm)

theorem flippedBit_ne (x : Byte) (j : Nat) (hj : j < 8) : x ^^^ (1#8 <<< j) ≠ x := by
  have hbit : ∀ j < 8, 1#8 <<< j ≠ 0#8 := by decide
  intro h
  rw [← BitVec.xor_zero (x := x), BitVec.xor_assoc, BitVec.xor_right_inj, BitVec.zero_xor] at h
  exact hbit j hj h

/-- What is read of a list with one byte changed is as before exactly elsewhere. -/
theorem getD_set_eq_iff (f : List Byte) (k i : Nat) (b v : Byte) (hk : k < f.length) (hb : b ≠ f.getD k 0)
    (hv : f.getD i 0 = v) : (f.set k b).getD i 0 = v ↔ k ≠ i := by
  subst hv
  by_cases hki : k = i
  · subst hki
    simpa [hk] using hb
  · simp [List.getElem?_set_ne hki, hki]

/-- R160 (b): the error reported for an accepted response with one byte changed, by where the byte is. -/
theorem parseResponse_set_of_ok (f p : List Byte) (ec el : Byte) (k : Nat) (b : Byte)
    (h : parseResponse f ec el = some (.ok p)) (hk : k < f.length) (hb : b ≠ f.getD k 0) :
    parseResponse (f.set k b) ec el = some (.protocolError
      (if k = 0 ∨ k = 1 then .header else if k = 3 then .command else if k = 4 then .length else .checksum)) := by
  obtain ⟨hl, ⟨hhdr, hcmd, hlen, hsum⟩, -⟩ := (parseResponse_ok_iff f ec el p).1 h
  obtain ⟨h0, h1⟩ := (hdrOk_iff f).1 hhdr
  have hread (i : Nat) (v : Byte) (hv : f.getD i 0 = v) := getD_set_eq_iff f k i b v hk hb hv
  rw [parseResponse_eq_ite _ _ _ (by rw [List.length_set, hl])]
  simp only [hdrOk_iff, cmdOk_iff, lenOk_iff, sumOk_set_of_ne f k b hsum hk hb, hread 0 _ h0, hread 1 _ h1,
    hread 3 _ ((cmdOk_iff _ _).1 hcmd), hread 4 _ ((lenOk_iff _ _).1 hlen), ne_eq,
    not_and_or, not_not, Bool.false_eq_true, not_false_eq_true, if_true, apply_ite ParseOutcome.protocolError]

/-- Settles O11: a change of one byte, a flip of one bit among them, shows; changes that leave the sum do not. -/
theorem whatTheChecksumDetects : Obligations.WhatTheChecksumDetects := by
  unfold Obligations.WhatTheChecksumDetects
  refine ⟨sumOk_set_of_ne, fun f k j h hk hj => ?flip, fun f p ec el k j h hk hj => ?reported,
    fun p q r x y d last h => ?cancel, fun p q last h => ?reorder⟩
  case flip => exact sumOk_set_of_ne f k _ h hk (flippedBit_ne _ j hj)
  case reported => exact parseResponse_set_of_ok f p ec el k _ h hk (flippedBit_ne _ j hj)
  case cancel =>
    have hsum (x y : Byte) : sumOk (p ++ x :: (q ++ y :: (r ++ [last]))) = true ↔
        last = sum8 p + (sum8 q + sum8 r + y) + x := by
      rw [← sum8_append_cons q, ← sum8_append_cons p, ← sumOk_append_one]
      simp
    rw [hsum] at h ⊢
    rw [h]
    ring
  case reorder => rw [Bool.eq_iff_iff, sumOk_append_one, sumOk_append_one, sum8_perm h]

end Sys2Proof.Machine
end

section
/-! SUPPORT. Single events of phase `RX`, and a whole read: in full, and cut short by a timeout
(spec/41_frame_receive.md R156 to R159). -/

namespace Sys2Proof.Machine

/-! ### A byte is taken -/

/-- R62, R156: the cell of a byte taken reads it, and the others are left alone. -/
theorem memRead_of_byte_taken (m : Mem) (i : Nat) (b : Byte) (hw : Memory.wf cfg.rxBufCells m = true) (hi : i < 261)
    (a : Nat) : memRead (memWrite cfg.rxBufCells m i b) a = if a = i then some b else memRead m a := by
  rw [memRead_memWrite _ _ _ _ _ hw]
  simp [hi, eq_comm]

/-- Settles O39: the receive step before the last byte, with the event consumed. -/
theorem receivedByteIsStoredAndSummed : Obligations.ReceivedByteIsStoredAndSummed := by
  unfold Obligations.ReceivedByteIsStoredAndSummed
  intro s rest b q hin hp hq hlt hw hneed
  have hstep : step s = .next (receiveStep { s with inputs := rest }) :=
    step_of_consumed_event s _ rest hin (by simp) (by simp)
  have hcell : s.rxIdx.toNat < 261 := by omega
  rw [receiveStep_inside { s with inputs := rest } b q hp hq hlt] at hstep
  exact ⟨_, hstep, rfl, memRead_of_byte_taken s.rxBuf _ b hw hcell⟩

/-! ### The timeout -/

/-- R71, R246: while bytes are needed, the receive engine heeds its events. -/
theorem receiving_of_lt (s : State) (hp : s.phase = .rx) (h : s.rxIdx.toNat < s.rxNeed.toNat) : receiving s = true := by
  simp [receiving, hp, h]

/-- R157, R235, R240: while bytes are needed, the timeout ends the operation with its cause recorded. -/
theorem step_times_out (s : State) (rest : List Input) (hin : s.inputs = .rxTimeout :: rest) (hp : s.phase = .rx)
    (h : s.rxIdx.toNat < s.rxNeed.toNat) : step s = .next (raise .timeout 0 { s with inputs := rest }) := by
  rw [step_of_consumed_event s _ rest hin (by simp) (by simp)]
  exact congrArg Host.Outcome.next (if_pos (receiving_of_lt { s with inputs := rest } hp h))

/-- Settles O40: the timeout raises `E_TIMEOUT` while the engine receives, and is ignored otherwise. -/
theorem timeoutEndsTheReceivePhase : Obligations.TimeoutEndsTheReceivePhase := by
  unfold Obligations.TimeoutEndsTheReceivePhase
  intro s rest hin
  refine ⟨step_times_out s rest hin, fun hignored => ?_⟩
  have hnot : receiving { s with inputs := rest } = false := by
    rcases hignored with hp | hle
    · exact not_receiving_of_phase { s with inputs := rest } hp
    · exact not_receiving_of_le { s with inputs := rest } hle
  have hstep : step s = .next (timeoutStep { s with inputs := rest }) :=
    step_of_consumed_event s _ rest hin (by simp) (by simp)
  rw [hstep, timeoutStep, hnot]
  rfl

/-! ### A whole read -/

/-- R155: the start of a receive phase is one of its points, whatever waits in the input buffer. -/
theorem receiving_of_start (s : State) (hp : s.phase = .rx) (hi : s.rxIdx = 0) (hs : s.rxSum = 0)
    (hn : s.rxNeed = s.expLen.setWidth 9 + 6) (hw : Memory.wf cfg.rxBufCells s.rxBuf = true) : Receiving [] s :=
  receiving_of_awaitsResponse { s with rxQueue := [] } ⟨hp, hi, hs, hn, rfl, hw⟩

/-- R156, R158: from the start of a receive phase, the events that take the bytes needed end in their verdict. -/
theorem run_reads_in_full (s : State) (r q : List Byte) (rest : List Input) (h : Receiving [] s)
    (hq : s.rxQueue = r ++ q) (hl : r.length = s.expLen.toNat + 6)
    (hin : s.inputs = List.replicate (s.expLen.toNat + 6) .rxByte ++ rest) :
    ∃ t, Host.Core.run core (s.expLen.toNat + 6) s = .next t ∧ ReadAndJudged r r.length q { s with inputs := rest } t :=
  ⟨_, run_rxByte _ rest s hin,
    receiveMany_readAndJudged { s with inputs := rest } [] r q h hq ((Nat.zero_add _).trans hl) _ hl.le⟩

/-- Settles O47: the bytes are read in full, and `ReadAndJudged` says the rest. -/
theorem fullReadVerdictIsParseResponse : Obligations.FullReadVerdictIsParseResponse := by
  unfold Obligations.FullReadVerdictIsParseResponse
  intro s rest r q hp hi hs hn hq hl hw hin
  obtain ⟨t, hrun, ht, -, -, hjudge⟩ :=
    run_reads_in_full s r q rest (receiving_of_start s hp hi hs hn hw) hq hl hin
  have hcount : BitVec.ofNat 9 r.length = s.rxNeed := by
    rw [hn, hl, BitVec.ofNat_add]
    simp
  refine ⟨t, hrun, ?_, ?_, ?_, ?_, ?count, ?_, ?verdict⟩
  case count => rw [ht, ← hcount]
  case verdict =>
    cases hparse : parseResponse r s.expCmd s.expLen with
    | none => exact absurd hparse (parseResponse_ne_none r _ _ hl)
    | some o =>
      simp only [hparse] at hjudge
      cases o with
      | protocolError e => exact hjudge
      | ok p =>
        by_cases hrej : s.opLatch.chkStatus = true ∧ r.getD 5 0 ≠ 0x00
        · simp only [if_pos hrej] at hjudge ⊢
          exact hjudge
        · simp only [if_neg hrej] at hjudge ⊢
          obtain ⟨hresult, hcode, -, hseen, hpayload⟩ := hjudge
          exact ⟨hresult, hcode, hseen, hpayload⟩
  all_goals rw [ht]

/-- R156, R157, R159: the events that take fewer bytes than are missing, and then the timeout. -/
theorem run_of_short_read (s : State) (r : List Byte) (rest : List Input) (hp : s.phase = .rx) (hq : s.rxQueue = r)
    (hlt : s.rxIdx.toNat + r.length < s.rxNeed.toNat)
    (hin : s.inputs = List.replicate r.length .rxByte ++ (.rxTimeout :: rest)) :
    Host.Core.run core (r.length + 1) s
      = .next (raise .timeout 0 (takenBytes { s with inputs := rest } r [] r.length)) := by
  have htake := run_rxByte r.length (.rxTimeout :: rest) s hin
  rw [receiveMany_short (withInputs (.rxTimeout :: rest) s) r hp hq hlt] at htake
  have hmissing : (takenBytes (withInputs (.rxTimeout :: rest) s) r [] r.length).rxIdx.toNat < s.rxNeed.toNat :=
    (rxIdx_takenBytes (withInputs (.rxTimeout :: rest) s) r [] r.length hlt).trans_lt hlt
  have htimeout := step_times_out (takenBytes (withInputs (.rxTimeout :: rest) s) r [] r.length) rest rfl hp hmissing
  exact (run_of_next _ 1 s _ htake).trans (run_of_step 0 _ _ htimeout)

/-- Settles O48: the bytes are taken one by one, and then the timeout is heeded. -/
theorem shortReadIsATimeout : Obligations.ShortReadIsATimeout := by
  unfold Obligations.ShortReadIsATimeout
  intro s rest r hp hi _ hq hlt hneed hw hin
  have hstart : s.rxIdx.toNat = 0 := by rw [hi]; rfl
  have hmissing : s.rxIdx.toNat + r.length < s.rxNeed.toNat := by omega
  refine ⟨_, run_of_short_read s r rest hp hq hmissing hin, rfl, rfl, rfl, rfl, rfl, rfl, ?count, ?cells, rfl, rfl⟩
  case count => exact (rxIdx_takenBytes s r [] r.length hmissing).trans (by omega)
  case cells =>
    have hcells := memRange_memWriteList cfg.rxBufCells s.rxBuf 0 [] r hw rfl (show 0 + r.length ≤ 261 by omega)
    simpa [takenBytes, hstart] using hcells

end Sys2Proof.Machine
end

section
/-! SUPPORT. The four arms of `DISPATCH` as instructions (spec/42_dispatch.md R182, R184 to R187). -/

namespace Sys2Proof.Machine

section
variable {c : Byte} {e : DispatchEntry} {s : State}

/-- R111 (c), R182: the instruction of a listed command, accepted, is the arm of its table entry on the cleared result. -/
theorem exec_dispatch_of_listed (he : dispatchEntry c = some e) (hr : Ready s) :
    exec (decodeOp 0x4 c) s = .next (dispatchArm e (clearResults s)) := by
  have hop : decodeOp 0x4 c ∈ ordinaryOps :=
    (decodeOp_isOperation _ _).resolve_right (decodeOp_ne_softReset _ _ (by decide))
  rw [exec_of_ready _ s hop hr, opBody_dispatch_of_listed c e _ he]

theorem exec_dispatch_of_no_await (he : dispatchEntry c = some e) (hr : Ready s) (hl : s.txLen = e.reqLen)
    (ha : e.await = false) :
    exec (decodeOp 0x4 c) s
      = .next { acceptedState s with opLatch := ⟨false, e.chkStatus⟩, txIdx := 0, txSum := 0, phase := .tx } := by
  rw [exec_dispatch_of_listed he hr, dispatchArm_of_no_await e (clearResults s) hl ha]
  rfl

theorem exec_dispatch_of_await {n : Byte} (he : dispatchEntry c = some e) (hr : Ready s) (hc : s.txCmd = c)
    (hl : s.txLen = e.reqLen) (ha : e.await = true) (hn : e.rspLen = some n) :
    exec (decodeOp 0x4 c) s
      = .next { acceptedState s with
          opLatch := ⟨true, e.chkStatus⟩
          expCmd := c
          expLen := n
          link := s.link ++ [.rxFlush]
          rxQueue := []
          txIdx := 0
          txSum := 0
          phase := .tx } := by
  rw [exec_dispatch_of_listed he hr, dispatchArm_of_await e (clearResults s) n hl ha hn, ← hc]
  rfl

end

/-- Settles O18: the rows 0x02 and 0x05 of the table await nothing. -/
theorem fireAndForgetArmsBeginTheTransmitPhase : Obligations.FireAndForgetArmsBeginTheTransmitPhase := by
  unfold Obligations.FireAndForgetArmsBeginTheTransmitPhase
  refine fun s hr => ⟨fun _ hl => ?keyboard, fun _ hl => ?mouse⟩
  case keyboard => exact exec_dispatch_of_no_await (c := 0x02) (e := entryKb) rfl hr hl rfl
  case mouse => exact exec_dispatch_of_no_await (c := 0x05) (e := entryMs) rfl hr hl rfl

/-- Settles O19: the rows 0x08 and 0x09 of the table await a response of 50 bytes and of one. -/
theorem awaitingArmsBeginTheirExchange : Obligations.AwaitingArmsBeginTheirExchange := by
  unfold Obligations.AwaitingArmsBeginTheirExchange
  refine fun s hr => ⟨fun hc hl => ?get, fun hc hl => ?set⟩
  case get => exact exec_dispatch_of_await (e := entryGet) rfl hr hc hl rfl rfl
  case set => exact exec_dispatch_of_await (e := entrySet) rfl hr hc hl rfl rfl

end Sys2Proof.Machine
end

section
/-! SUPPORT. The payloads the formatters make (spec/43_payload_format.md R200, R202). -/

namespace Sys2Proof.Machine

/-! ### The keyboard payload -/

/-- R200: a slot beyond the list holds 0x00. -/
theorem kbPayload_key_padded (m : Byte) (ks : List Byte) (j : Nat) (h : j < 6) :
    (kbPayload m ks)[2 + j]? = some (if j < ks.length then ks.getD j 0 else 0x00) := by
  rw [kbPayload_key m ks j h]
  split
  · rfl
  next hbeyond => rw [List.getD_eq_default ks 0 (by omega)]

/-- Settles O12: slot by slot, from what each slot of the payload holds. -/
theorem keyboardPayloadBytes : Obligations.KeyboardPayloadBytes := by
  unfold Obligations.KeyboardPayloadBytes
  exact fun m ks => ⟨rfl, rfl, rfl, kbPayload_key_padded m ks, (kbPayload_take_six m ks).symm, rfl⟩

/-! ### The saturated displacement -/

theorem clamp_mem {lo hi : Int} (v : Int) (h : lo ≤ hi) : lo ≤ clamp v lo hi ∧ clamp v lo hi ≤ hi := by
  unfold clamp
  split_ifs <;> omega

theorem clamp_of_mem {v lo hi : Int} (hlo : lo ≤ v) (hhi : v ≤ hi) : clamp v lo hi = v := by
  rw [clamp, if_neg (by omega), if_neg (by omega)]

theorem deltaByte_eq_ofInt (v : Int) : deltaByte v = BitVec.ofInt 8 (clamp v (-127) 127) := rfl

/-- R202: a clamped value fits a signed byte, so encoding it loses nothing. -/
theorem deltaByte_toInt (v : Int) : (deltaByte v).toInt = clamp v (-127) 127 := by
  obtain ⟨hlo, hhi⟩ := clamp_mem (lo := -127) (hi := 127) v (by decide)
  rw [deltaByte_eq_ofInt, BitVec.toInt_ofInt_eq_self (by decide) (by omega) (by omega)]

theorem deltaByte_ne_minimum (v : Int) : deltaByte v ≠ 0x80 := by
  intro h
  obtain ⟨hlo, -⟩ := clamp_mem (lo := -127) (hi := 127) v (by decide)
  have hmin : clamp v (-127) 127 = -128 := by rw [← deltaByte_toInt, h]; rfl
  omega

/-- R202: in range, the byte is the residue of the value modulo 256. -/
theorem deltaByte_toNat_of_mem {v : Int} (hlo : -127 ≤ v) (hhi : v ≤ 127) : (deltaByte v).toNat = (v % 256).toNat := by
  rw [deltaByte_eq_ofInt, clamp_of_mem hlo hhi, BitVec.toNat_ofInt]
  rfl

/-- Settles O13: the byte is the clamped value, which lies in the range of a signed byte short of its minimum. -/
theorem deltaByteSaturatesAndKeepsTheSign : Obligations.DeltaByteSaturatesAndKeepsTheSign := by
  unfold Obligations.DeltaByteSaturatesAndKeepsTheSign
  refine ⟨deltaByte_toInt, deltaByte_ne_minimum, fun v hpos hhi => ?positive, fun v hlo hneg => ?negative,
    by decide, by decide, by decide, by decide⟩
  case positive => rw [deltaByte_toNat_of_mem (by omega) hhi, Int.emod_eq_of_lt (by omega) (by omega)]
  case negative =>
    have hmod : v % 256 = 256 + v := by omega
    rw [deltaByte_toNat_of_mem hlo (by omega), hmod]

end Sys2Proof.Machine
end

section
/-! SUPPORT. `CLEAR` and the two resets (spec/44_control.md R220, R221, spec/70_reset_and_hazards.md R260, R261). -/

namespace Sys2Proof.Machine

/-! ### `CLEAR` -/

/-- R220: `CLEAR` once accepted. -/
theorem exec_clear_of_ready (s : State) (hr : Ready s) :
    exec .clear s = .next { clearResults s with phase := .idle } :=
  exec_of_ready .clear s (by simp [ordinaryOps]) hr

/-- Where there is no result, the clearing of R111 (c) has nothing to clear. -/
theorem NoResult.clearResults_eq {s : State} (h : NoResult s) : clearResults s = s := by
  rw [clearResults, ← h.result, ← h.errCode, ← h.errStatus, ← h.checks]

/-- Settles O25: accepted, it is the clearing and phase `IDLE`; a busy codec ignores it; a sound `IDLE` state has no
result to clear. -/
theorem clearAcknowledgesTheResult : Obligations.ClearAcknowledgesTheResult := by
  unfold Obligations.ClearAcknowledgesTheResult
  refine ⟨exec_clear_of_ready, fun s hbusy => ?ignored, fun s hinv hidle => ?nothing⟩
  case ignored => exact busyCodecIgnoresOperations s hbusy .clear (by simp [ordinaryOps])
  case nothing =>
    have hclear : clearResults s = s := (hinv.noResult (by simp [hidle])).clearResults_eq
    rw [exec_clear_of_ready s (.inl hidle), hclear, ← hidle]

/-! ### `SOFT_RESET` and hardware reset -/

theorem exec_softReset (s : State) : exec .softReset s = .next (resetCodec s) := rfl

/-- R82: in a memory nothing has written since reset, no cell holds a defined value. -/
@[simp] theorem memRead_nil (i : Nat) : memRead [] i = none := rfl

/-- R260: after a reset no cell of either byte memory holds a defined value. -/
theorem memRead_resetCodec (s : State) (i : Nat) :
    memRead (resetCodec s).txBuf i = none ∧ memRead (resetCodec s).rxBuf i = none :=
  ⟨memRead_nil i, memRead_nil i⟩

/-- R260: a step on hardware reset is the reset of the codec. -/
theorem step_resets (s : State) (rest : List Input) (h : s.inputs = .rst :: rest) :
    step s = .next (resetCodec { s with inputs := rest }) :=
  step_of_consumed_event s .rst rest h (by simp) (by simp)

/-- Settles O26: `SOFT_RESET` and hardware reset are both `resetCodec`, whose fields are those listed. -/
theorem resetPutsEveryRegisterBack : Obligations.ResetPutsEveryRegisterBack := by
  unfold Obligations.ResetPutsEveryRegisterBack
  refine ⟨fun s rest hrst => ?hardware, fun s => ?soft⟩
  case hardware => rw [step_resets s rest hrst, exec_softReset]
  case soft => exact ⟨resetCodec s, exec_softReset s, rfl, memRead_resetCodec s⟩

end Sys2Proof.Machine
end

section
/-! SUPPORT. What every error records (spec/60_exceptions.md R230, R240, R44). -/

namespace Sys2Proof.Machine

/-- R230: the only cause of code 6 is `E_REJECTED`. -/
theorem errCode_code_eq_six_iff (e : ErrCode) : e.code = 6 ↔ e = .rejected := by
  cases e <;> decide

/-- R44, R230: every cause has a bit in `ERR_SEEN`. -/
theorem errCode_code_lt_nine (e : ErrCode) : e.code.toNat < 9 := by
  cases e <;> decide

/-- R44: a cause sets the bit of its code alone. -/
theorem seenBit_getLsbD (e : ErrCode) (k : Nat) : e.seenBit.getLsbD k = decide (k = e.code.toNat) := by
  rw [ErrCode.seenBit, ← BitVec.twoPow_eq, BitVec.getLsbD_twoPow, decide_eq_true (errCode_code_lt_nine e),
    Bool.true_and]
  simp only [eq_comm]

/-- Settles O35: `raise` writes these fields; `ERR_SEEN` gains the bit of the cause. -/
theorem raiseRecordsTheCause : Obligations.RaiseRecordsTheCause := by
  unfold Obligations.RaiseRecordsTheCause
  intro e info s _
  refine ⟨s.errSeen ||| e.seenBit, ?fields, fun k _ => ?seen⟩
  case fields => simp only [raise, errCode_code_eq_six_iff]
  case seen =>
    rw [BitVec.getLsbD_or, seenBit_getLsbD e k]
    by_cases hc : k = e.code.toNat <;> simp [hc]

end Sys2Proof.Machine
end

section
/-! SUPPORT. Between operations only the host and hardware reset change what can be observed of a run
(spec/60_exceptions.md R243, R246, spec/70_reset_and_hazards.md R279). -/

namespace Sys2Proof.Machine

/-! ### The engines in phase `IDLE` or `DONE` -/

theorem Ready.phase_ne_tx {s : State} (h : Ready s) : s.phase ≠ .tx := by
  rcases h with h | h <;> simp [h]

theorem Ready.phase_ne_rx {s : State} (h : Ready s) : s.phase ≠ .rx := by
  rcases h with h | h <;> simp [h]

theorem frameOut_of_phase (bytes : List Byte) (s : State) (h : s.phase ≠ .tx) : frameOut bytes s = .next s :=
  if_neg fun hc => h hc.1

theorem txFailStep_of_phase (s : State) (h : s.phase ≠ .tx) : txFailStep s = s := if_neg h

theorem timeoutStep_of_phase (s : State) (h : s.phase ≠ .rx) : timeoutStep s = s := by
  rw [timeoutStep, not_receiving_of_phase s h]
  rfl

/-! ### What is observed of a step between operations -/

theorem outcome_hostRead (no : Byte) (idx : Nat) (s : State) : outcome (hostRead no idx s) = outcome s := by
  rw [hostRead_onlyHostData]
  rfl

theorem hostRead_inputs (no : Byte) (idx : Nat) (s : State) : (hostRead no idx s).inputs = s.inputs := by
  rw [hostRead_onlyHostData]

theorem eventStep_of_ready {s t : State} {e : Input} (hr : Ready s) (hw : ∀ no idx v, e ≠ .wr no idx v)
    (hrst : e ≠ .rst) (h : eventStep e s = .next t) : outcome t = outcome s ∧ t.inputs = s.inputs := by
  cases e with
  | wr no idx v => exact absurd rfl (hw no idx v)
  | rst => exact absurd rfl hrst
  | rd no idx =>
    cases h
    exact ⟨outcome_hostRead no idx s, hostRead_inputs no idx s⟩
  | link bytes =>
    rw [eventStep, receiveFrame_of_phase bytes s hr.phase_ne_rx] at h
    cases h
    exact ⟨rfl, rfl⟩
  | txReady =>
    rw [eventStep, transmitStep_of_phase s hr.phase_ne_tx] at h
    cases h
    exact ⟨rfl, rfl⟩
  | txFail =>
    rw [eventStep, txFailStep_of_phase s hr.phase_ne_tx] at h
    cases h
    exact ⟨rfl, rfl⟩
  | rxByte =>
    rw [eventStep, receiveStep_of_nothing_to_take s (.inl hr.phase_ne_rx)] at h
    cases h
    exact ⟨rfl, rfl⟩
  | rxTimeout =>
    rw [eventStep, timeoutStep_of_phase s hr.phase_ne_rx] at h
    cases h
    exact ⟨rfl, rfl⟩
  | _ =>
    cases h
    exact ⟨rfl, rfl⟩

/-- R243, R246: bytes on the link wait or are not heeded, and so is every other input. -/
theorem step_of_ready_event {s t : State} {e : Input} {rest : List Input} (hin : s.inputs = e :: rest) (hr : Ready s)
    (hw : ∀ no idx v, e ≠ .wr no idx v) (hrst : e ≠ .rst) (h : step s = .next t) :
    outcome t = outcome s ∧ t.inputs = rest := by
  have hrest : (dropInput s).inputs = rest := by simp [hin]
  by_cases hl : ∃ bytes, e = .link bytes
  · obtain ⟨bytes, rfl⟩ := hl
    rcases step_of_link s bytes rest hin with ⟨b, hs⟩ | ⟨b, hs⟩ <;> rw [hs] at h
    · rw [frameOut_of_phase b (dropInput s) hr.phase_ne_tx] at h
      cases h
      exact ⟨rfl, hrest⟩
    · rw [receiveFrame_of_phase b (dropInput s) hr.phase_ne_rx] at h
      cases h
      exact ⟨rfl, hrest⟩
  · rw [step_of_event s e rest hin (hw 0x00) (fun bytes he => hl ⟨bytes, he⟩)] at h
    obtain ⟨ho, hi⟩ := eventStep_of_ready (s := dropInput s) hr hw hrst h
    exact ⟨ho, hi.trans hrest⟩

/-! ### The outcome determines what is read from it -/

section
variable {s t : State} (h : outcome t = outcome s)
include h

theorem phase_eq_of_outcome : t.phase = s.phase := (congrArg State.phase h :)

theorem result_eq_of_outcome : t.result = s.result := (congrArg State.result h :)

theorem errCode_eq_of_outcome : t.errCode = s.errCode := (congrArg State.errCode h :)

theorem errSeen_eq_of_outcome : t.errSeen = s.errSeen := (congrArg State.errSeen h :)

theorem link_eq_of_outcome : t.link = s.link := (congrArg State.link h :)

theorem ready_of_outcome (hr : Ready s) : Ready t := by
  rwa [Ready, phase_eq_of_outcome h]

end

/-! ### A run that is over -/

theorem not_write_of_not_isHostAction {e : Input} (h : e.isHostAction = false) (no : Byte) (idx : Nat) (v : Half) :
    e ≠ .wr no idx v := by
  rintro rfl
  cases h

/-- R279: what a step of a run that is over can do: reset the codec, or leave the outcome. -/
theorem RunOver.step_cases {s t : State} (hover : RunOver s) (h : step s = .next t) :
    (∀ e ∈ t.inputs, e.isHostAction = false) ∧
      ((∃ rest, s.inputs = .rst :: rest ∧ t = resetCodec { s with inputs := rest }) ∨ outcome t = outcome s) := by
  obtain ⟨hhost, hr⟩ := hover
  cases hin : s.inputs with
  | nil =>
    rw [step_of_no_input s hin] at h
    cases h
    exact ⟨hhost, .inr rfl⟩
  | cons e rest =>
    rw [hin, List.forall_mem_cons] at hhost
    obtain ⟨he, hrest⟩ := hhost
    by_cases hrst : e = .rst
    · subst hrst
      rw [step_resets s rest hin] at h
      cases h
      exact ⟨hrest, .inl ⟨rest, rfl, rfl⟩⟩
    · obtain ⟨ho, hi⟩ := step_of_ready_event hin hr (not_write_of_not_isHostAction he) hrst h
      rw [hi]
      exact ⟨hrest, .inr ho⟩

/-- Settles O59: such a step leaves the outcome, and the rest is read off it; a run that is over can also be reset. -/
theorem noErrorBetweenOperations : Obligations.NoErrorBetweenOperations := by
  unfold Obligations.NoErrorBetweenOperations
  refine ⟨fun s t e rest hin hr h hw hrst => ?between, fun s t hover h => ?runOver⟩
  case between =>
    obtain ⟨ho, -⟩ := step_of_ready_event hin hr hw hrst h
    exact ⟨errCode_eq_of_outcome ho, errSeen_eq_of_outcome ho, result_eq_of_outcome ho, phase_eq_of_outcome ho⟩
  case runOver =>
    obtain ⟨hhost, ⟨rest, hin, rfl⟩ | ho⟩ := hover.step_cases h
    · have hover' : RunOver (resetCodec { s with inputs := rest }) := ⟨hhost, .inl rfl⟩
      exact ⟨hover', fun _ => ⟨hover', rfl⟩, rfl, fun hne => absurd hin (hne rest)⟩
    · have hover' : RunOver t := ⟨hhost, ready_of_outcome ho hover.2⟩
      refine ⟨hover', fun ⟨_, hseen⟩ => ⟨hover', ?_⟩, link_eq_of_outcome ho, fun _ => ho⟩
      exact (errSeen_eq_of_outcome ho).trans hseen

end Sys2Proof.Machine
end

section
/-! SUPPORT. The state right after reset is sound (spec/70_reset_and_hazards.md R260). -/

namespace Sys2Proof.Machine

/-- Settles O50: resetting leaves a sound state, and `State.reset` differs from its own reset only in `freeCtr`, of which
`Inv` does not speak. -/
theorem resetStateIsSound : Obligations.ResetStateIsSound := by
  unfold Obligations.ResetStateIsSound
  have hreset : Inv (resetCodec State.reset) := inv_resetCodec State.reset
  exact { hreset with }

end Sys2Proof.Machine
end

section
/-! SUPPORT. A request frame that the codec is not sending (spec/20_memory.md R70, spec/30_encoding.md R90; log entry 4). -/

namespace Sys2Proof.Machine

/-- R90, R132: the frame in the operand registers begins with the five bytes that they alone determine, its length byte
being `TX_LEN`. -/
theorem operandFrame_take_five (s : State) (f : List Byte) (h : operandFrame s = some f) : f.take 5 = frameStart s := by
  obtain ⟨p, -, hl, rfl⟩ := operandFrame_some s f h
  simp [frameHead, frameStart, hl]

theorem frameOut_of_not_at_start (bytes : List Byte) (s : State) (h : ¬(s.phase = .tx ∧ s.txIdx = 0 ∧ s.txSum = 0)) :
    frameOut bytes s = .next s := if_neg h

/-- A frame with another address, command or length passes unheeded, whether or not the payload is written. -/
theorem frameOut_of_take_five_ne (bytes : List Byte) (s : State) (h : bytes.take 5 ≠ frameStart s) :
    frameOut bytes s = .next s := by
  rcases frameOut_cases bytes s with e | ⟨-, -, -, hb⟩ | ⟨-, -, -, -, hf⟩
  · exact e
  · exact absurd hb h
  · exact absurd (operandFrame_take_five s bytes hf) h

theorem frameOut_of_operandFrame_ne (bytes : List Byte) (s : State) (f : List Byte) (hf : operandFrame s = some f)
    (h : f ≠ bytes) : frameOut bytes s = .next s := by
  rcases frameOut_cases bytes s with e | ⟨-, -, hnone, -⟩ | ⟨-, -, -, -, hb⟩
  · exact e
  · exact nomatch hf.symm.trans hnone
  · exact absurd (Option.some.inj (hf.symm.trans hb)) h

/-- Settles O29: a request frame has an effect only at the start of phase `TX`, and there only as the frame in the operand
registers or, where these hold none, as one that begins like it. -/
theorem requestFrameNotSentChangesNothing : Obligations.RequestFrameNotSentChangesNothing := by
  unfold Obligations.RequestFrameNotSentChangesNothing
  intro i s hr h
  rw [exec_of_isRequestFrame i s hr]
  rcases h with hp | hi | hs | hb | ⟨f, hf, hne⟩
  · exact frameOut_of_phase _ s hp
  · exact frameOut_of_not_at_start _ s fun ⟨_, hidx, _⟩ => hi hidx
  · exact frameOut_of_not_at_start _ s fun ⟨_, _, hsum⟩ => hs hsum
  · exact frameOut_of_take_five_ne _ s hb
  · exact frameOut_of_operandFrame_ne _ s f hf hne

end Sys2Proof.Machine
end
